-- ==== Sys2Proof/Word.lean ====
section
/-! DEFINITION. The word types of the part: bytes and fields of packets, the 10-bit component, and the triple of
three components that is both a pixel (01, "Terms": c0, c1, c2) and the values of a table word (02 2.1: a0, a1, a2). -/

namespace Sys2Proof

/-- One byte of a packet (11, "Every packet on either lane is a sequence of whole bytes"). -/
abbrev Byte := BitVec 8

/-- A two-byte field. -/
abbrev Half := BitVec 16

/-- A four-byte field. -/
abbrev Word := BitVec 32

/-- A 10-bit component, 0-1023. -/
abbrev Comp := BitVec 10

/-- Three components: a pixel (c0, c1, c2) or the three values of a table word (a0, a1, a2), in that order. -/
structure Triple where
  c0 : Comp
  c1 : Comp
  c2 : Comp
deriving DecidableEq, Repr

/-- The three values 0, 0, 0. -/
def Triple.zero : Triple := ⟨0, 0, 0⟩

end Sys2Proof
end

