-- ==== Sys2Proof/Syntax.lean ====
section
/-! DEFINITION. The commands of the part: one constructor of `Instr` for each row of spec/opcode_table.json, in the
order of the table, and the shapes of the packets they carry (Section 11). -/

namespace Sys2Proof

/-- A CM packet as it arrived (R138, Table 11.2-2): the whole destination byte (bits 7-6 are ignored by the match and
forwarded as received, R175), tag, command code and payload. Its payload length field is the payload's length. -/
structure CommandPacket where
  dest    : Byte
  tag     : Byte
  code    : Byte
  payload : List Byte
deriving DecidableEq, Repr

/-- A forward packet that makes sense for its kind (Tables 11.2-1 and 11.2-2). The pixel count of an LN is the number
of its pixel words. -/
inductive ForwardPacket where
  | fs (frame width height : Half)
  | ln (line : Half) (pixels : List Word)
  | fe (linesSent : Half)
  | cm (p : CommandPacket)
  | cr (total : Byte)
  | lr
  | fill
deriving DecidableEq, Repr

/-- The commands. One constructor a row of the table; the operands are what the outside world supplies (packet fields
or packet bytes). The rows that execute a command of the command unit carry no operands: the arguments stand in the CM
packet at the head of the command queue (R138, R140; log 3). -/
inductive Instr where
  /-- POWER_ON_RESET (R179): the reset pin is asserted, or supplies rise. -/
  | powerOnReset
  /-- FS (R125): a frame start packet with a correct CRC-16. -/
  | fs (frame width height : Half)
  /-- LN (R127): a line packet with a correct CRC-16. -/
  | ln (line : Half) (pixels : List Word)
  /-- FE (R128): a frame end packet with a correct CRC-16. -/
  | fe (linesSent : Half)
  /-- GUARD_OUTCOME (R93): the commit unit takes the oldest outcome handed over. -/
  | guardOutcome
  /-- CM (R139): a command packet with a correct CRC-16. -/
  | cm (dest tag code : Byte) (payload : List Byte)
  /-- CR (R163): a credit packet with a correct CRC-16. -/
  | cr (total : Byte)
  /-- LINK_RESET (R137): an LR packet with a correct CRC-16. -/
  | linkReset
  /-- FILL (R134): a forward filler packet with a correct CRC-16. -/
  | fill
  /-- BAD_PACKET (R122): the bytes of a forward packet whose CRC-16 is incorrect. -/
  | badPacket (bytes : List Byte)
  /-- SIGNAL_LOSS_EXPIRY (R132). -/
  | signalLossExpiry
  /-- RETURN_PACKET (R160): the bytes of a packet arriving on the downstream return lane. -/
  | returnPacket (bytes : List Byte)
  /-- FILL_JOB_END (R48). -/
  | fillJobEnd
  /-- COPY_JOB_END (R49). -/
  | copyJobEnd
  /-- CHECK_JOB_END (R52). -/
  | checkJobEnd
  /-- SCRUB_JOB_END (R54). -/
  | scrubJobEnd
  /-- WAITING_COMMAND_RESUMED (R143). -/
  | waitingCommandResumed
  /-- MESSAGE_BEGUN (R165). -/
  | messageBegun
  /-- MESSAGE_SENT (R165). -/
  | messageSent
  /-- EV_QUEUED (R157). -/
  | evQueued
  /-- CREDIT_ANNOUNCEMENT (R135). -/
  | creditAnnouncement
  /-- UNKNOWN_COMMAND (R141): the head command's code is none of the 22. -/
  | unknownCommand
  /-- SET_MODE (R10), code 10h. -/
  | setMode
  /-- RELEASE_TABLE (R39), code 25h. -/
  | releaseTable
  /-- READ_TABLE (R40), code 26h. -/
  | readTable
  /-- OPEN_TABLE (R56), code 20h. -/
  | openTable
  /-- WRITE_TABLE (R58), code 21h. -/
  | writeTable
  /-- CLOSE_TABLE (R60), code 22h. -/
  | closeTable
  /-- DISCARD_TABLE (R61), code 23h. -/
  | discardTable
  /-- SCRUB_BANK (R63), code 24h. -/
  | scrubBank
  /-- WRITE_CONFIG (R71), code 30h. -/
  | writeConfig
  /-- READ_CONFIG (R73), code 31h. -/
  | readConfig
  /-- COMMIT (R76), code 32h. -/
  | commit
  /-- CANCEL_COMMIT (R85), code 33h. -/
  | cancelCommit
  /-- CONFIRM_COMMIT (R96), code 34h. -/
  | confirmCommit
  /-- ROLLBACK_COMMIT (R99), code 35h. -/
  | rollbackCommit
  /-- CAPTURE_SIGNATURE (R115), code 40h. -/
  | captureSignature
  /-- READ_WINDOW (R114), code 41h. -/
  | readWindow
  /-- SET_LINK_OPTIONS (R133), code 04h. -/
  | setLinkOptions
  /-- IDENTIFY (R147), code 01h. -/
  | identify
  /-- READ_STATUS (R148), code 02h. -/
  | readStatus
  /-- ACK_EVENTS (R158), code 05h. -/
  | ackEvents
  /-- SET_EVENT_MASK (R159), code 06h. -/
  | setEventMask
  /-- CLAIM_ADDRESS (R171), code 03h. -/
  | claimAddress
  /-- MALFORMED_FORWARD_PACKET (R123): the bytes of a malformed forward packet. -/
  | malformedForwardPacket (bytes : List Byte)
  /-- RESET_RELEASE (R179). -/
  | resetRelease
deriving DecidableEq, Repr

end Sys2Proof
end

