-- ==== Sys2Proof/Decode.lean ====
section
/-! DEFINITION. The commands spelled by words of spec/opcode_table.json. No row of that table gives bits ("fields" is
empty and "fixed" is absent for every row), so no word spells a command (log 5). -/

namespace Sys2Proof

/-- The command a table word spells: none, for every word. -/
def decodeTableWord (_nbits _w : Nat) : Option Instr := none

end Sys2Proof
end

