-- ==== Sys2Proof/Machine/Crc.lean ====
section
/-! DEFINITION. The two cyclic redundancy checks: CRC-16 of link packets (R176) and CRC-32 of bank checks and
signatures (R103, R104). -/

namespace Sys2Proof.Machine

/-- One data bit into the CRC-16 register (R176): generator 1021h, most significant bit compared, shifted up. -/
def crc16Bit (reg : Half) (bit : Bool) : Half :=
  if reg.msb == bit then reg <<< 1 else (reg <<< 1) ^^^ 0x1021#16

/-- One byte into the CRC-16, most significant bit first (R176). -/
def crc16Byte (reg : Half) (b : Byte) : Half :=
  [7, 6, 5, 4, 3, 2, 1, 0].foldl (fun r i => crc16Bit r (b.getLsbD i)) reg

/-- The CRC-16 of a series of bytes, from FFFFh, with no final inversion (R176). -/
def crc16 (bytes : List Byte) : Half := bytes.foldl crc16Byte 0xFFFF#16

/-- One data bit into the CRC-32 register (R103): generator 1EDC6F41h. -/
def crc32Bit (reg : Word) (bit : Bool) : Word :=
  if reg.msb == bit then reg <<< 1 else (reg <<< 1) ^^^ 0x1EDC6F41#32

/-- The CRC-32 register before the first data bit (R103). -/
def crc32Start : Word := 0xFFFFFFFF#32

/-- One 10-bit value into the CRC-32, most significant bit first (R104). -/
def crc32Value (reg : Word) (v : Comp) : Word :=
  [9, 8, 7, 6, 5, 4, 3, 2, 1, 0].foldl (fun r i => crc32Bit r (v.getLsbD i)) reg

/-- A pixel (c0, c1, c2) or a table word (a0, a1, a2) into the CRC-32, in that order (R104). -/
def crc32Triple (reg : Word) (t : Triple) : Word :=
  crc32Value (crc32Value (crc32Value reg t.c0) t.c1) t.c2

/-- A series of pixels or table words into the CRC-32. -/
def crc32Triples (reg : Word) (ts : List Triple) : Word := ts.foldl crc32Triple reg

end Sys2Proof.Machine
end

