-- ==== Sys2Proof/Machine/Packets.lean ====
section
/-! DEFINITION. The forward packets on the lane (Section 11): their bytes, and the three classes of R121 to R123:
good, malformed and bad. Also the pixel word (Table 11.2-3). -/

namespace Sys2Proof.Machine

/-- A two-byte field, most significant byte first (R175). -/
def bytes16 (x : Half) : List Byte := [x.extractLsb' 8 8, x.extractLsb' 0 8]

/-- A four-byte field, most significant byte first (R175). -/
def bytes32 (x : Word) : List Byte :=
  [x.extractLsb' 24 8, x.extractLsb' 16 8, x.extractLsb' 8 8, x.extractLsb' 0 8]

/-- The components of a pixel word or of a carried table word (Table 11.2-3, 11.5): bits 31-30 are ignored. -/
def tripleOfWord (w : Word) : Triple := ⟨w.extractLsb' 20 10, w.extractLsb' 10 10, w.extractLsb' 0 10⟩

/-- The word that carries a triple, its two unused high bits zero (R6, R175). -/
def wordOfTriple (t : Triple) : Word := (0#2 ++ t.c0 ++ t.c1 ++ t.c2 : BitVec 32)

/-- Content bytes followed by their CRC-16, high byte first (R176). -/
def withCrc (content : List Byte) : List Byte := content ++ bytes16 (crc16 content)

/-- Kind bytes of Table 11.2-1. -/
def kindFill : Byte := 0x00
def kindFs : Byte := 0x10
def kindLn : Byte := 0x11
def kindFe : Byte := 0x12
def kindCm : Byte := 0x20
def kindCr : Byte := 0x30
def kindLr : Byte := 0x3F

/-- The bytes of a forward packet before its CRC-16 (Table 11.2-2). -/
def contentOf : ForwardPacket → List Byte
  | .fs frame width height => kindFs :: (bytes16 frame ++ bytes16 width ++ bytes16 height)
  | .ln line pixels =>
      kindLn :: (bytes16 line ++ bytes16 (BitVec.ofNat 16 pixels.length) ++ pixels.flatMap bytes32)
  | .fe linesSent => kindFe :: bytes16 linesSent
  | .cm p => kindCm :: p.dest :: p.tag :: p.code :: BitVec.ofNat 8 p.payload.length :: p.payload
  | .cr total => [kindCr, total]
  | .lr => [kindLr]
  | .fill => [kindFill]

/-- The packet as it stands on the lane. -/
def encodePacket (p : ForwardPacket) : List Byte := withCrc (contentOf p)

/-- The range conditions of R121 for a packet whose length agrees with its kind. -/
def fieldsInRange : ForwardPacket → Bool
  | .fs _ width height =>
      1 ≤ width.toNat && width.toNat ≤ 4096 && 1 ≤ height.toNat && height.toNat ≤ 4096
  | .ln line pixels => line.toNat ≤ 4095 && 1 ≤ pixels.length && pixels.length ≤ 4096
  | .fe linesSent => linesSent.toNat ≤ 4096
  | .cm p => p.payload.length ≤ 136
  | .cr _ => true
  | .lr => true
  | .fill => true

/-- The pixel words of an LN, four bytes each; `none` when the bytes are not whole words. -/
def pixelWords : List Byte → Option (List Word)
  | [] => some []
  | a :: b :: c :: d :: rest => (pixelWords rest).map fun ws => (a ++ b ++ c ++ d : BitVec 32) :: ws
  | _ => none

/-- The packet whose kind byte is `kind` and whose content after it is `rest`, when its length agrees with its kind
(R121); `none` when the kind is unknown or the length disagrees. -/
def parseContent (kind : Byte) (rest : List Byte) : Option ForwardPacket :=
  if kind = kindFs then
    match rest with
    | [f1, f0, w1, w0, h1, h0] => some (.fs (f1 ++ f0) (w1 ++ w0) (h1 ++ h0))
    | _ => none
  else if kind = kindLn then
    match rest with
    | l1 :: l0 :: n1 :: n0 :: px =>
        match pixelWords px with
        | some ws => if (n1 ++ n0 : Half).toNat = ws.length then some (.ln (l1 ++ l0) ws) else none
        | none => none
    | _ => none
  else if kind = kindFe then
    match rest with
    | [s1, s0] => some (.fe (s1 ++ s0))
    | _ => none
  else if kind = kindCm then
    match rest with
    | dest :: tag :: code :: len :: payload =>
        if len.toNat = payload.length then some (.cm ⟨dest, tag, code, payload⟩) else none
    | _ => none
  else if kind = kindCr then
    match rest with
    | [total] => some (.cr total)
    | _ => none
  else if kind = kindLr then
    match rest with
    | [] => some .lr
    | _ => none
  else if kind = kindFill then
    match rest with
    | [] => some .fill
    | _ => none
  else none

/-- The content of a packet: all its bytes but the last two, which are its CRC-16. -/
def packetContent (bytes : List Byte) : List Byte := bytes.take (bytes.length - 2)

/-- A packet's CRC-16 is correct (R176). A packet too short to hold a kind byte and a CRC-16 has no correct one
(R179: a packet cut short is received as one whose CRC-16 is incorrect; log 23). -/
def crcCorrect (bytes : List Byte) : Bool := 3 ≤ bytes.length && withCrc (packetContent bytes) == bytes

/-- The classes of 7.2. -/
inductive PacketClass where
  | good (p : ForwardPacket)
  | malformed
  | bad
deriving DecidableEq, Repr

/-- The class of a packet with a correct CRC-16, from its content (R121). -/
def classifyContent : List Byte → PacketClass
  | [] => .malformed
  | kind :: rest =>
      match parseContent kind rest with
      | some p => if fieldsInRange p then .good p else .malformed
      | none => .malformed

/-- The class of a packet as it arrived (R121). -/
def classify (bytes : List Byte) : PacketClass :=
  if crcCorrect bytes then classifyContent (packetContent bytes) else .bad

/-- A packet's kind field reads LN (R122, R123). -/
def kindReadsLn (bytes : List Byte) : Bool := bytes.head? == some kindLn

end Sys2Proof.Machine
end

