-- ==== Sys2Proof/Config.lean ====
section
/-! DEFINITION. What is fixed for the part (Table 1-2, R147) and the free values the spec leaves open (R22, R46, R179). -/

namespace Sys2Proof.Config

/-- Part code reported by IDENTIFY (R147). -/
def partCode : Half := 0x4C31

/-- Revision reported by IDENTIFY (R147). -/
def revision : Byte := 2

/-- Capacities reported by IDENTIFY, in the order of Table 11.7-2: banks, handles, chains, stages per chain,
regions, windows (R147). -/
def capacities : List Byte := [16, 10, 4, 4, 6, 4]

/-- Words of a bank (02 2.1). -/
def wordsPerBank : Nat := 1024

/-- Room of the bank engine's job queue (R47). -/
def jobRoom : Nat := 4

/-- Room of the command queue (R138). -/
def commandRoom : Nat := 8

/-- Number of reply slots (R138). -/
def replySlots : Nat := 8

/-- Attempts of a capture (R117). -/
def captureAttempts : Nat := 4

/-- Signal-loss setting after power-on reset, in ms (R120). -/
def defaultLossSetting : Byte := 40

/-- FREE VALUE (log 6). For the n-th read of the table memory: `none` when the read is sound, `some v` when it meets a
parity fault and yields the values `v`. R22: a parity fault may occur on any read of any word, and its values need not
be those last written. -/
opaque readDisturbance : Nat → Option Triple

/-- FREE VALUE (log 10). How many words the n-th abandoned running job had written when it was stopped
(R46: it "stops where it is"; the spec gives no number). -/
opaque abandonedProgress : Nat → Nat

/-- FREE VALUE (log 37). At the n-th power-on reset: how many of the packets handed to the downstream forward lane had
not left whole, and how many bytes of the first of them had left (R179: the packet a lane is sending is cut off there). -/
opaque forwardCut : Nat → Nat × Nat

/-- FREE VALUE (log 37). At the n-th power-on reset: how many bytes of the packet being sent on the upstream return lane, a
message or a return FILL, had left (R179). -/
opaque returnCut : Nat → Nat

end Sys2Proof.Config
end

