-- ==== Sys2Proof/Machine/State.lean ====
section
/-! DEFINITION. The state of the part, block by block (Table 1-1), as plain data, and its value after power-on reset. -/

namespace Sys2Proof.Machine

/-- The part never stops with a fault: every packet, command and event has an effect in every state. So there is no
constructor, and no meaning raises one. -/
inductive Fault where
deriving DecidableEq, Repr

/-- Reasons to give a command no meaning. -/
inductive Refusal where
  /-- Raised by `exec`'s arm of a command whose meaning is not written; safe (the model stops). No arm raises it. -/
  | notModelled (mnemonic : String)
deriving DecidableEq, Repr

/-! ### Numbers that name things -/

/-- A handle 1-10, held as its number less 1 (02 2.2). -/
abbrev Handle := Fin 10

/-- A bank 0-15 (02 2.1). -/
abbrev Bank := Fin 16

/-- A set of handles: bit i for handle i + 1 (R76). -/
abbrev HandleSet := BitVec 10

/-- The handles in increasing number. -/
def allHandles : List Handle := [0, 1, 2, 3, 4, 5, 6, 7, 8, 9]

/-- The banks in increasing number. -/
def allBanks : List Bank := [0, 1, 2, 3, 4, 5, 6, 7, 8, 9, 10, 11, 12, 13, 14, 15]

/-! ### Lane receiver (R120) -/

/-- Receiver states (R120, 7.3). -/
inductive ReceiverState where
  | noSignal | hunt | frame | blank
deriving DecidableEq, Repr

/-- What the lane receiver holds (R120). -/
structure LaneReceiver where
  state        : ReceiverState
  boundarySeen : Bool
  /-- Last frame number; 0 while it is unknown (log 19). -/
  lastFrame    : Half
  /-- Last boundary frame number; 0 while it is unknown (log 19). -/
  lastBoundary : Half
  width        : Half
  height       : Half
  linesTaken   : Nat
  broken       : Bool
  linkErrors   : Half
  brokenFrames : Half
  /-- The signal-loss timer: `none` stopped, `some ms` running with the setting it was started with (R132, R133). -/
  timer        : Option Byte
  setting      : Byte
deriving DecidableEq, Repr

/-! ### Pixel path (R1) -/

/-- Pixel path modes (Table 1.1-1). -/
inductive Mode where
  | bypass | active | fallback
deriving DecidableEq, Repr

/-- What the pixel path holds (R1). -/
structure PixelPath where
  mode        : Mode
  pendingMode : Option Mode
deriving DecidableEq, Repr

/-! ### Table memory (R22) -/

/-- A word of the table memory: three values and the parity bit kept with them (02 2.1). -/
structure TableWord where
  values : Triple
  parity : Bool
deriving DecidableEq, Repr

/-- The table memory: listed words by address (bank * 1024 + index), addresses strictly rising, no listed word equal
to what an unlisted one reads as (log 8, 11). -/
abbrev Memory := List (Nat × TableWord)

/-! ### Bank map (R25 to R34) -/

/-- A side record (R26). -/
structure Side where
  bank     : Bank
  keyCount : Nat
  mark     : Bool
deriving DecidableEq, Repr

/-- Staged states (Table 2.2-2). -/
inductive StagedState where
  | none | filling | copying | opened | checking | loaded | committing
deriving DecidableEq, Repr

/-- A handle record (Table 2.2-1). -/
structure HandleRecord where
  active        : Option Side
  staged        : Option Side
  retained      : Option Side
  stagedState   : StagedState
  nextSeq       : Half
  writeAccepted : Bool
  faultCount    : Byte
deriving DecidableEq, Repr

/-- The bank map (2.2, 2.3). The two sets are listed in the order their banks joined them (log 30). -/
structure BankMap where
  handles    : Vector HandleRecord 10
  free       : List Bank
  quarantine : List Bank
  withdrawn  : List Bank
deriving DecidableEq, Repr

/-! ### Bank engine (R45) -/

/-- The kind of a job with what its record holds for that kind (R45). -/
inductive JobWork where
  | fill (h : Handle)
  | copy (h : Handle) (source : Bank) (keyCount : Nat)
  | check (h : Handle) (expected : Word) (keyCount : Nat)
  | scrub (b : Bank)
deriving DecidableEq, Repr

/-- A job record: the work, and the originating command's tag and code, from which the deferred reply is built (R45). -/
structure Job where
  work : JobWork
  tag  : Byte
  code : Byte
deriving DecidableEq, Repr

/-! ### Configuration store (Table 4.1-1) -/

/-- Stage kinds (R66). -/
inductive StageKind where
  | curve | palette | key
deriving DecidableEq, Repr

/-- A stage entry (R66). The option is a component mask for CURVE (bits 2-0), an index component 0-2 for PALETTE, and
carried and ignored for KEY (log 18). -/
structure Stage where
  kind   : StageKind
  handle : Handle
  option : Byte
deriving DecidableEq, Repr

/-- A rectangle, coordinates 0-4095 (Table 4.1-1). -/
structure Rect where
  x0 : BitVec 12
  y0 : BitVec 12
  x1 : BitVec 12
  y1 : BitVec 12
deriving DecidableEq, Repr

/-- A region record (R67). -/
structure Region where
  enabled : Bool
  rect    : Rect
  chain   : Fin 4
deriving DecidableEq, Repr

/-- Window modes (Table 4.1-1). -/
inductive WindowMode where
  | off | check
deriving DecidableEq, Repr

/-- Window actions (Table 4.1-1). -/
inductive WindowAction where
  | report | fallback
deriving DecidableEq, Repr

/-- A window record (R67). -/
structure WindowRecord where
  mode        : WindowMode
  rect        : Rect
  expected    : Word
  threshold   : BitVec 4
  action      : WindowAction
  guardMember : Bool
deriving DecidableEq, Repr

/-- A configuration: four chain records, six region records, four window records (4.1). -/
structure Configuration where
  chains  : Vector (List Stage) 4
  regions : Vector Region 6
  windows : Vector WindowRecord 4
deriving DecidableEq, Repr

/-- The configuration store (R69, R70). -/
structure ConfigStore where
  active : Configuration
  staged : Configuration
  saved  : Option Configuration
  frozen : Bool
deriving DecidableEq, Repr

/-! ### Commit unit (R74) -/

/-- Commit states (R74). -/
inductive CommitState where
  | idle | pending | guarding | rollbackPending
deriving DecidableEq, Repr

/-- A commit's target (R76). -/
inductive Target where
  | next
  | at (frame : Half)
deriving DecidableEq, Repr

/-- The pending commit record (R74). -/
structure PendingCommit where
  target        : Target
  handles       : HandleSet
  includeConfig : Bool
  guardFrames   : BitVec 4
deriving DecidableEq, Repr

/-- Guard outcomes (R92). -/
inductive GuardOutcome where
  | counted | failed | notCounted
deriving DecidableEq, Repr

/-- What the commit unit holds (R74), and the outcomes handed to it and not yet taken (R93, R112; log 25). -/
structure CommitUnit where
  state         : CommitState
  pendingCommit : Option PendingCommit
  guardedSet    : Option HandleSet
  guardCounter  : BitVec 4
  lastApplied   : Bool
  handed        : List GuardOutcome
deriving DecidableEq, Repr

/-! ### Signature unit (R105, R115) -/

/-- A window checker (R105). -/
structure WindowChecker where
  count         : BitVec 4
  lastSignature : Option Word
  matched       : Half
  mismatched    : Half
  skipped       : Half
  running       : Word
deriving DecidableEq, Repr

/-- The points of a capture (R115). -/
inductive CapturePoint where
  | input | output
deriving DecidableEq, Repr

/-- A capture record (R115). -/
structure CaptureRecord where
  point    : CapturePoint
  rect     : Rect
  tag      : Byte
  code     : Byte
  attempts : Nat
deriving DecidableEq, Repr

/-- The capture unit (Table 6.4-1). -/
inductive Capture where
  | idle
  | armed (r : CaptureRecord)
  | running (r : CaptureRecord) (signature : Word)
deriving DecidableEq, Repr

/-- What the signature unit holds (R105, R115). Bit w of the mismatch set stands for window w. -/
structure SignatureUnit where
  checkers    : Vector WindowChecker 4
  mismatchSet : BitVec 4
  capture     : Capture
deriving DecidableEq, Repr

/-! ### Command unit (R138) -/

/-- What the command unit holds (R138); `waiting` is the condition "waiting for job room" of the head (Table 8.3-1). -/
structure CommandUnit where
  queue   : List CommandPacket
  slots   : Nat
  dropped : Half
  waiting : Bool
deriving DecidableEq, Repr

/-! ### Return transmitter (R154 to R165) -/

/-- Status codes (Table 8.5-1). -/
inductive Status where
  | ok | duplicate | unknownCommand | badLength | badArgument | badHandle | wrongState | busy | noBank | sequence
  | mismatch | fault | pending | guardActive | unbound | targetPast | inUse | late | aborted | noCleanFrame | outside
deriving DecidableEq, Repr

/-- An RP message (R145). -/
structure Reply where
  source  : BitVec 6
  tag     : Byte
  code    : Byte
  status  : Status
  payload : List Byte
deriving DecidableEq, Repr

/-- The eleven event kinds (Table 9.2-1), in the order of their bits (Table 11.8-2). -/
inductive EventKind where
  | linkError | frameBroken | signalLost | signalFound | commitApplied | commitConfirmed | rolledBack | windowMismatch
  | fallbackEntered | bankFault | commandsDropped
deriving DecidableEq, Repr

/-- An EV message: the kinds latched when it was queued and the snapshot (R157). Bit h of `markedHandles` stands for
handle h. -/
structure EventMessage where
  source        : BitVec 6
  kinds         : BitVec 11
  mode          : Mode
  receiver      : ReceiverState
  commit        : CommitState
  boundarySeen  : Bool
  lastBoundary  : Half
  freeLength    : Nat
  mismatchSet   : BitVec 4
  markedHandles : Half
  dropped       : Half
  linkErrors    : Half
  brokenFrames  : Half
deriving DecidableEq, Repr

/-- An entry of the own queue (R154). -/
inductive OwnMessage where
  | reply (r : Reply)
  | event (e : EventMessage)
deriving DecidableEq, Repr

/-- The two queues the arbiter serves (R165). -/
inductive LaneQueue where
  | own | pass
deriving DecidableEq, Repr

/-- The message being sent on the upstream return lane: the front of the own or of the pass queue, or a message begun
before a link reset, which is sent to its end outside the new accounting (R165, R166). -/
inductive Sending where
  | own
  | pass
  | uncounted (bytes : List Byte)
deriving DecidableEq, Repr

/-- What the return transmitter holds (R154, R160, R162, R165). -/
structure ReturnTransmitter where
  own          : List OwnMessage
  pass         : List (List Byte)
  downGrant    : Byte
  downReceived : Byte
  upGrant      : Byte
  upSent       : Byte
  lastServed   : LaneQueue
  sending      : Option Sending
deriving DecidableEq, Repr

/-- The event register: three indications for each kind (R156). Bit positions are those of Table 11.8-2. -/
structure EventRegister where
  latched  : BitVec 11
  reported : BitVec 11
  masked   : BitVec 11
deriving DecidableEq, Repr

/-- A packet an output lane has carried: whole, or cut off by the reset pin (R179). -/
structure LanePacket where
  bytes : List Byte
  whole : Bool
deriving DecidableEq, Repr

/-! ### The whole part -/

/-- The state of the part. -/
structure State where
  /-- Lane receiver (R120). -/
  rx        : LaneReceiver
  /-- Pixel path (R1). -/
  pix       : PixelPath
  /-- Table memory (R22). -/
  mem       : Memory
  /-- Bank map (2.2, 2.3). -/
  banks     : BankMap
  /-- Bank engine's job queue; the first job is the running one (R45). -/
  jobs      : List Job
  /-- Configuration store (R69). -/
  cfg       : ConfigStore
  /-- Commit unit (R74). -/
  commit    : CommitUnit
  /-- Signature unit (R105, R115). -/
  sig       : SignatureUnit
  /-- Command unit (R138). -/
  cmd       : CommandUnit
  /-- Return transmitter (R154, R160, R162). -/
  ret       : ReturnTransmitter
  /-- Event register (R156). -/
  events    : EventRegister
  /-- Forward transmitter's pending credit announcement (R135). -/
  creditDue : Bool
  /-- Part address; 0 is unassigned (R168). -/
  address   : BitVec 6
  /-- The reset pin is asserted (R179). -/
  resetHeld : Bool
  /-- What the downstream forward lane has carried, oldest first (R136; log 21). -/
  downOut   : List LanePacket
  /-- MODEL'S OWN: packets handed to the downstream forward lane since the last power-on reset, of which the last may not
  have left when the pin is asserted (log 37). -/
  downHanded : Nat
  /-- What the upstream return lane has carried, oldest first, filler apart (R165; log 21). -/
  upOut     : List LanePacket
  /-- MODEL'S OWN: table-memory reads made, the argument of Config.readDisturbance (log 6). -/
  reads     : Nat
  /-- MODEL'S OWN: running jobs abandoned, the argument of Config.abandonedProgress (log 10). -/
  abandons  : Nat
  /-- MODEL'S OWN: power-on resets taken, the argument of Config.forwardCut and Config.returnCut (log 37). -/
  resets    : Nat
  /-- MODEL'S OWN: the commands waiting to be taken by step, first in first out (log 4). -/
  pending   : List Instr
deriving DecidableEq, Repr

/-! ### Power-on values -/

/-- A handle record after power-on reset (R25). -/
def HandleRecord.empty : HandleRecord :=
  { active := none, staged := none, retained := none, stagedState := .none, nextSeq := 0, writeAccepted := false,
    faultCount := 0 }

/-- The bank map after power-on reset (R43). -/
def BankMap.initial : BankMap :=
  { handles := Vector.replicate 10 HandleRecord.empty, free := allBanks, quarantine := [], withdrawn := [] }

/-- A rectangle 0, 0, 0, 0 (Table 4.1-1). -/
def Rect.zero : Rect := ⟨0, 0, 0, 0⟩

/-- The configuration after power-on reset: chains empty, regions disabled, windows OFF (Table 4.1-1, R88). -/
def Configuration.initial : Configuration :=
  { chains := Vector.replicate 4 [],
    regions := Vector.replicate 6 { enabled := false, rect := Rect.zero, chain := 0 },
    windows := Vector.replicate 4
      { mode := .off, rect := Rect.zero, expected := 0, threshold := 1, action := .report, guardMember := false } }

/-- A window checker after power-on reset (R105; its running signature: log 19). -/
def WindowChecker.initial : WindowChecker :=
  { count := 0, lastSignature := none, matched := 0, mismatched := 0, skipped := 0, running := 0xFFFFFFFF }

/-- The lane receiver after power-on reset (R120; values without a frame: log 19). -/
def LaneReceiver.initial : LaneReceiver :=
  { state := .noSignal, boundarySeen := false, lastFrame := 0, lastBoundary := 0, width := 0, height := 0,
    linesTaken := 0, broken := false, linkErrors := 0, brokenFrames := 0, timer := none,
    setting := Config.defaultLossSetting }

/-- The commit unit after power-on reset (R74, R88). -/
def CommitUnit.initial : CommitUnit :=
  { state := .idle, pendingCommit := none, guardedSet := none, guardCounter := 0, lastApplied := false, handed := [] }

/-- The signature unit after power-on reset (R105, R119). -/
def SignatureUnit.initial : SignatureUnit :=
  { checkers := Vector.replicate 4 WindowChecker.initial, mismatchSet := 0, capture := .idle }

/-- The return transmitter after power-on reset: the counters 0, the down-grant total then advanced to 16 (R167). -/
def ReturnTransmitter.initial : ReturnTransmitter :=
  { own := [], pass := [], downGrant := 16, downReceived := 0, upGrant := 0, upSent := 0, lastServed := .own,
    sending := none }

/-- The part right after power-on reset, the reset pin released (R179; log 20). -/
def State.reset : State :=
  { rx := LaneReceiver.initial,
    pix := { mode := .bypass, pendingMode := none },
    mem := [],
    banks := BankMap.initial,
    jobs := [],
    cfg := { active := Configuration.initial, staged := Configuration.initial, saved := none, frozen := false },
    commit := CommitUnit.initial,
    sig := SignatureUnit.initial,
    cmd := { queue := [], slots := 0, dropped := 0, waiting := false },
    ret := ReturnTransmitter.initial,
    events := { latched := 0, reported := 0, masked := 0 },
    creditDue := true,
    address := 0,
    resetHeld := false,
    downOut := [],
    downHanded := 0,
    upOut := [],
    reads := 0,
    abandons := 0,
    resets := 0,
    pending := [] }

end Sys2Proof.Machine
end

