-- ==== Sys2Proof/Machine/Operands.lean ====
section
/-! DEFINITION. The arguments of commands: every field form of Tables 11.6-1 and 11.7-1, with the range checks of the
records (R68). A payload is a list of bytes; a field is read at its byte offset. -/

namespace Sys2Proof.Machine

/-- The byte of a payload at an offset. -/
def byteAt (p : List Byte) (i : Nat) : Byte := p.getD i 0

/-- The two-byte field at an offset, most significant byte first (R175). -/
def halfAt (p : List Byte) (i : Nat) : Half := byteAt p i ++ byteAt p (i + 1)

/-- The four-byte field at an offset, most significant byte first (R175). -/
def wordAt (p : List Byte) (i : Nat) : Word := (halfAt p i ++ halfAt p (i + 2) : BitVec 32)

/-- A yes-or-no byte: bit 0 gives the value, the others are ignored (R175). -/
def flagAt (p : List Byte) (i : Nat) : Bool := (byteAt p i).getLsbD 0

/-- The destination of a CM: bits 5-0 of its destination byte (R175). -/
def destinationOf (c : CommandPacket) : BitVec 6 := c.dest.extractLsb' 0 6

/-- A handle argument; `none` outside 1-10 (R141). -/
def handleOf (b : Byte) : Option Handle :=
  if h : 1 ≤ b.toNat ∧ b.toNat ≤ 10 then some ⟨b.toNat - 1, by omega⟩ else none

/-- The number of a handle, as carried. -/
def handleByte (h : Handle) : Byte := BitVec.ofNat 8 (h.val + 1)

/-- A bank argument; `none` outside 0-15 (R63). -/
def bankOf (b : Byte) : Option Bank := if h : b.toNat < 16 then some ⟨b.toNat, h⟩ else none

/-- The number of a bank, as carried. -/
def bankByte (b : Bank) : Byte := BitVec.ofNat 8 b.val

/-- Sides of a handle, as READ_TABLE names them (Table 11.7-1). -/
inductive SideName where
  | active | staged | retained
deriving DecidableEq, Repr

/-- The side argument of READ_TABLE (R40). -/
def sideOf (b : Byte) : Option SideName :=
  if b = 0 then some .active else if b = 1 then some .staged else if b = 2 then some .retained else none

/-- The side of a handle record that a name stands for. -/
def HandleRecord.side (r : HandleRecord) : SideName → Option Side
  | .active => r.active
  | .staged => r.staged
  | .retained => r.retained

/-- The mode argument of OPEN_TABLE: yes for COPY (Table 11.7-1, R56). -/
def openModeOf (b : Byte) : Option Bool := if b = 0 then some false else if b = 1 then some true else none

/-- The mode argument of SET_MODE: 0 BYPASS, 1 ACTIVE (Table 11.7-1); FALLBACK is no argument (R10). -/
def modeOf (b : Byte) : Option Mode := if b = 0 then some .bypass else if b = 1 then some .active else none

/-- The point argument of CAPTURE_SIGNATURE (Table 11.7-1). -/
def pointOf (b : Byte) : Option CapturePoint :=
  if b = 0 then some .input else if b = 1 then some .output else none

/-- The window argument of READ_WINDOW; `none` outside 0-3 (R114). -/
def windowOf (b : Byte) : Option (Fin 4) := if h : b.toNat < 4 then some ⟨b.toNat, h⟩ else none

/-- A rectangle of four two-byte fields from an offset; `none` with a coordinate above 4095, x0 > x1 or y0 > y1
(R68, R115). -/
def rectAt (p : List Byte) (i : Nat) : Option Rect :=
  let x0 := (halfAt p i).toNat
  let y0 := (halfAt p (i + 2)).toNat
  let x1 := (halfAt p (i + 4)).toNat
  let y1 := (halfAt p (i + 6)).toNat
  if x1 ≤ 4095 ∧ y1 ≤ 4095 ∧ x0 ≤ x1 ∧ y0 ≤ y1 then
    some ⟨BitVec.ofNat 12 x0, BitVec.ofNat 12 y0, BitVec.ofNat 12 x1, BitVec.ofNat 12 y1⟩
  else none

/-- A set of event kinds or a mask; `none` when it names a kind that does not exist, bits 15-11 (R158, R159). -/
def kindSetOf (w : Half) : Option (BitVec 11) := if w.extractLsb' 11 5 = 0 then some (w.extractLsb' 0 11) else none

/-- A handle set of COMMIT, bit h for handle h; `none` when it names a number outside 1-10 (11.7). -/
def handleSetOf (w : Half) : Option HandleSet :=
  if w.getLsbD 0 = false ∧ w.extractLsb' 11 5 = 0 then some (w.extractLsb' 1 10) else none

/-- A handle is in a handle set. -/
def HandleSet.has (hs : HandleSet) (h : Handle) : Bool := hs.getLsbD h.val

/-- The target argument of COMMIT: 0 NEXT, 1 AT with the frame number (Table 11.7-1). -/
def targetOf (code : Byte) (frame : Half) : Option Target :=
  if code = 0 then some .next else if code = 1 then some (.at frame) else none

/-! ### Configuration records (Table 11.6-1, R68) -/

/-- The record a WRITE_CONFIG or READ_CONFIG addresses: kind and index (R71, R73). -/
inductive RecordName where
  | chain (i : Fin 4)
  | region (i : Fin 6)
  | window (i : Fin 4)
deriving DecidableEq, Repr

/-- The kind and index arguments; `none` for another kind or an index outside the kind's range (R71). -/
def recordNameOf (kind index : Byte) : Option RecordName :=
  if kind = 0 then (if h : index.toNat < 4 then some (.chain ⟨index.toNat, h⟩) else none)
  else if kind = 1 then (if h : index.toNat < 6 then some (.region ⟨index.toNat, h⟩) else none)
  else if kind = 2 then (if h : index.toNat < 4 then some (.window ⟨index.toNat, h⟩) else none)
  else none

/-- A stage kind (Table 11.6-1). -/
def stageKindOf (b : Byte) : Option StageKind :=
  if b = 1 then some .curve else if b = 2 then some .palette else if b = 3 then some .key else none

/-- The option a stage entry keeps (R66, Table 11.6-1; log 18): a CURVE's mask is bits 2-0, a PALETTE's index
component must be 0-2, a KEY's is carried. -/
def stageOptionOf (kind : StageKind) (b : Byte) : Option Byte :=
  match kind with
  | .curve => some (b &&& 7)
  | .palette => if b.toNat ≤ 2 then some b else none
  | .key => some b

/-- The stage entry `s` of a carried CHAIN record; `none` when it is invalid (R68). -/
def stageAt (area : List Byte) (s : Nat) : Option Stage :=
  match stageKindOf (byteAt area (1 + 4 * s)), handleOf (byteAt area (2 + 4 * s)) with
  | some kind, some handle => (stageOptionOf kind (byteAt area (3 + 4 * s))).map fun o => ⟨kind, handle, o⟩
  | _, _ => none

/-- Stage entries `s`, `s + 1`, ... of a carried CHAIN record, `n` of them; `none` when one is invalid. -/
def stagesFrom (area : List Byte) (s : Nat) : Nat → Option (List Stage)
  | 0 => some []
  | n + 1 =>
      match stageAt area s, stagesFrom area (s + 1) n with
      | some st, some rest => some (st :: rest)
      | _, _ => none

/-- A carried CHAIN record; entries beyond the stage count are not looked at (R66, R68). -/
def chainOf (area : List Byte) : Option (List Stage) :=
  if (byteAt area 0).toNat ≤ 4 then stagesFrom area 0 (byteAt area 0).toNat else none

/-- A carried REGION record (R68). -/
def regionOf (area : List Byte) : Option Region :=
  match rectAt area 2 with
  | some rect =>
      if h : (byteAt area 1).toNat < 4 then some ⟨flagAt area 0, rect, ⟨(byteAt area 1).toNat, h⟩⟩ else none
  | none => none

/-- A window mode (Table 11.6-1). -/
def windowModeOf (b : Byte) : Option WindowMode := if b = 0 then some .off else if b = 1 then some .check else none

/-- A window action (Table 11.6-1). -/
def windowActionOf (b : Byte) : Option WindowAction :=
  if b = 0 then some .report else if b = 1 then some .fallback else none

/-- A carried WINDOW record (R68). -/
def windowRecordOf (area : List Byte) : Option WindowRecord :=
  match windowModeOf (byteAt area 0), windowActionOf (byteAt area 1), rectAt area 4 with
  | some mode, some action, some rect =>
      if 1 ≤ (byteAt area 2).toNat ∧ (byteAt area 2).toNat ≤ 15 then
        some { mode := mode, rect := rect, expected := wordAt area 12, threshold := (byteAt area 2).extractLsb' 0 4,
               action := action, guardMember := flagAt area 3 }
      else none
  | _, _, _ => none

/-- A configuration with one record replaced by a carried one; `none` when the record is invalid (R68, R71). -/
def Configuration.withRecord (c : Configuration) (name : RecordName) (area : List Byte) : Option Configuration :=
  match name with
  | .chain i => (chainOf area).map fun r => { c with chains := c.chains.set i.val r }
  | .region i => (regionOf area).map fun r => { c with regions := c.regions.set i.val r }
  | .window i => (windowRecordOf area).map fun r => { c with windows := c.windows.set i.val r }

/-- A stage of some chain of a configuration names the handle (R39, R77). -/
def Configuration.names (c : Configuration) (h : Handle) : Bool :=
  c.chains.toList.any fun chain => chain.any fun st => st.handle == h

end Sys2Proof.Machine
end

