-- ==== Sys2Proof/Machine/Formats.lean ====
section
/-! DEFINITION. The layouts of what the part builds: codes of Tables 11.7-4 and 11.7-5, records as READ_CONFIG returns
them (Table 11.6-1), and the bytes of its own RP, EV, CR and FILL packets (11.2, 11.3, 11.8). -/

namespace Sys2Proof.Machine

/-- Status values (Table 11.7-5). -/
def Status.byte : Status → Byte
  | .ok => 0x00
  | .duplicate => 0x01
  | .unknownCommand => 0x10
  | .badLength => 0x11
  | .badArgument => 0x12
  | .badHandle => 0x13
  | .wrongState => 0x20
  | .busy => 0x21
  | .noBank => 0x22
  | .sequence => 0x23
  | .mismatch => 0x24
  | .fault => 0x25
  | .pending => 0x30
  | .guardActive => 0x31
  | .unbound => 0x32
  | .targetPast => 0x33
  | .inUse => 0x34
  | .late => 0x35
  | .aborted => 0x40
  | .noCleanFrame => 0x41
  | .outside => 0x42

/-- Mode codes (Table 11.7-4). -/
def Mode.byte : Mode → Byte
  | .bypass => 0
  | .active => 1
  | .fallback => 2

/-- Receiver state codes (Table 11.7-4). -/
def ReceiverState.byte : ReceiverState → Byte
  | .noSignal => 0
  | .hunt => 1
  | .frame => 2
  | .blank => 3

/-- Commit state codes (Table 11.7-4). -/
def CommitState.byte : CommitState → Byte
  | .idle => 0
  | .pending => 1
  | .guarding => 2
  | .rollbackPending => 3

/-- Staged state codes (Table 11.7-4). -/
def StagedState.byte : StagedState → Byte
  | .none => 0
  | .filling => 1
  | .copying => 2
  | .opened => 3
  | .checking => 4
  | .loaded => 5
  | .committing => 6

/-- Capture state codes (Table 11.7-4). -/
def Capture.byte : Capture → Byte
  | .idle => 0
  | .armed _ => 1
  | .running _ _ => 2

/-- Point codes (Table 11.7-1). -/
def CapturePoint.byte : CapturePoint → Byte
  | .input => 0
  | .output => 1

/-- Side codes of READ_TABLE (Table 11.7-1). -/
def SideName.byte : SideName → Byte
  | .active => 0
  | .staged => 1
  | .retained => 2

/-- A yes-or-no byte as the part writes it (R175). -/
def flagByte (b : Bool) : Byte := if b then 1 else 0

/-- A number as a byte. -/
def natByte (n : Nat) : Byte := BitVec.ofNat 8 n

/-- A payload of zeros: a reply whose status gives no field (R178). -/
def zeros (n : Nat) : List Byte := List.replicate n 0

/-- A record padded to its area with zeros (R175). -/
def padTo (n : Nat) (l : List Byte) : List Byte := l ++ zeros (n - l.length)

/-- A 12-bit coordinate as its two-byte field. -/
def coordBytes (x : BitVec 12) : List Byte := bytes16 (x.setWidth 16)

/-- A rectangle as carried: x0, y0, x1, y1. -/
def Rect.bytes (r : Rect) : List Byte := coordBytes r.x0 ++ coordBytes r.y0 ++ coordBytes r.x1 ++ coordBytes r.y1

/-- A stage entry as carried (Table 11.6-1). -/
def Stage.bytes (st : Stage) : List Byte :=
  [match st.kind with | .curve => 1 | .palette => 2 | .key => 3, handleByte st.handle, st.option, 0]

/-- A chain record as carried: entries beyond the stage count are zero (R66). -/
def chainArea (chain : List Stage) : List Byte := padTo 20 (natByte chain.length :: chain.flatMap Stage.bytes)

/-- A region record as carried. -/
def Region.area (r : Region) : List Byte := padTo 20 ([flagByte r.enabled, natByte r.chain.val] ++ r.rect.bytes)

/-- Bytes 0-15 of a window record as carried. -/
def WindowRecord.bytes (w : WindowRecord) : List Byte :=
  [match w.mode with | .off => 0 | .check => 1, match w.action with | .report => 0 | .fallback => 1,
    w.threshold.setWidth 8, flagByte w.guardMember] ++ w.rect.bytes ++ bytes32 w.expected

/-- The record area of a configuration's record, as READ_CONFIG returns it (R73). -/
def Configuration.area (c : Configuration) : RecordName → List Byte
  | .chain i => chainArea c.chains[i.val]
  | .region i => c.regions[i.val].area
  | .window i => padTo 20 c.windows[i.val].bytes

/-- An RP packet (Table 11.3-1). -/
def Reply.packet (r : Reply) : List Byte :=
  withCrc (0x40#8 :: r.source.setWidth 8 :: r.tag :: r.code :: r.status.byte :: natByte r.payload.length :: r.payload)

/-- An EV packet (Tables 11.3-1 and 11.8-1). When no boundary has been seen its frame number is zero. -/
def EventMessage.packet (e : EventMessage) : List Byte :=
  withCrc ([0x41#8, e.source.setWidth 8] ++ bytes16 (e.kinds.setWidth 16) ++ [e.mode.byte, e.receiver.byte, e.commit.byte,
    flagByte e.boundarySeen] ++ bytes16 (if e.boundarySeen then e.lastBoundary else 0) ++ [natByte e.freeLength,
    e.mismatchSet.setWidth 8] ++ bytes16 e.markedHandles ++ bytes16 e.dropped ++ bytes16 e.linkErrors
    ++ bytes16 e.brokenFrames)

/-- A message of the own queue as it is sent. -/
def OwnMessage.packet : OwnMessage → List Byte
  | .reply r => r.packet
  | .event e => e.packet

/-- The filler the return lane carries while no message is sent (R165, Table 11.3-1). -/
def returnFiller : List Byte := withCrc [0x00#8]

/-- The class of a return packet that is a message: it is sound when its CRC-16 is correct and it is an RP of 8 to 88
bytes or an EV of 22 (R160; a FILL kind that is not 3 bytes long counts as unknown, log 24). -/
def returnMessageSound (bytes : List Byte) : Bool :=
  crcCorrect bytes &&
    ((bytes.head? == some 0x40#8 && 8 ≤ bytes.length && bytes.length ≤ 88) ||
     (bytes.head? == some 0x41#8 && bytes.length == 22))

/-- A 3-byte return packet is a sound FILL (R160). -/
def returnFillSound (bytes : List Byte) : Bool := crcCorrect bytes && bytes.head? == some 0x00#8

end Sys2Proof.Machine
end

