-- ==== Sys2Proof/Machine/Flags.lean ====
section
/-! DEFINITION. Saturating counts, the event register (R156), and the test that queues an EV (R157). -/

namespace Sys2Proof.Machine

/-- A 16-bit count one higher, staying at 65535 (R120, R138, R105). -/
def saturate16 (x : Half) : Half := if x = 0xFFFF#16 then x else x + 1

/-- The lookup fault count one higher, staying at 255 (R19). -/
def saturate8 (x : Byte) : Byte := if x = 0xFF#8 then x else x + 1

/-- The consecutive mismatch count one higher, staying at 15 (R110). -/
def saturate4 (x : BitVec 4) : BitVec 4 := if x = 0xF#4 then x else x + 1

/-- The bit of an event kind (Table 11.8-2). -/
def EventKind.bit : EventKind → Nat
  | .linkError => 0
  | .frameBroken => 1
  | .signalLost => 2
  | .signalFound => 3
  | .commitApplied => 4
  | .commitConfirmed => 5
  | .rolledBack => 6
  | .windowMismatch => 7
  | .fallbackEntered => 8
  | .bankFault => 9
  | .commandsDropped => 10

/-- The set of one kind. -/
def EventKind.set (k : EventKind) : BitVec 11 := 1#11 <<< k.bit

/-- Raising a kind: it latches, reported stays as it was (R156). -/
def EventRegister.raise (r : EventRegister) (k : EventKind) : EventRegister := { r with latched := r.latched ||| k.set }

/-- Raising a kind in the part. -/
def State.raise (s : State) (k : EventKind) : State := { s with events := s.events.raise k }

/-- Raising a kind when its cause is present. -/
def State.raiseIf (s : State) (cause : Bool) (k : EventKind) : State := if cause then s.raise k else s

/-- A link error of the lane receiver or the return transmitter: counted, and LINK_ERROR raised (R122, R123, R130,
R160, R163). -/
def State.linkError (s : State) : State :=
  { s with rx := { s.rx with linkErrors := saturate16 s.rx.linkErrors } }.raise .linkError

/-- A handle record has a fault mark on one of its three sides (R35). -/
def HandleRecord.marked (r : HandleRecord) : Bool :=
  [r.active, r.staged, r.retained].any fun side => side.any Side.mark

/-- The handles with a fault mark, bit h for handle h (Table 11.8-1). -/
def BankMap.markedHandles (b : BankMap) : Half :=
  allHandles.foldl (fun acc h => if b.handles[h.val].marked then acc ||| (1#16 <<< (h.val + 1)) else acc) 0

/-- The EV that the state gives (R157): all kinds latched, and the snapshot. -/
def State.eventMessage (s : State) : EventMessage :=
  { source := s.address,
    kinds := s.events.latched,
    mode := s.pix.mode,
    receiver := s.rx.state,
    commit := s.commit.state,
    boundarySeen := s.rx.boundarySeen,
    lastBoundary := s.rx.lastBoundary,
    freeLength := s.banks.free.length,
    mismatchSet := s.sig.mismatchSet,
    markedHandles := s.banks.markedHandles,
    dropped := s.cmd.dropped,
    linkErrors := s.rx.linkErrors,
    brokenFrames := s.rx.brokenFrames }

/-- A message of the own queue is an EV. -/
def OwnMessage.isEvent : OwnMessage → Bool
  | .event _ => true
  | .reply _ => false

/-- The EV slot is occupied: an EV stands in the own queue, sent or not (R155). -/
def State.eventSlotTaken (s : State) : Bool := s.ret.own.any OwnMessage.isEvent

/-- The queue condition of R157: a kind is latched, unmasked and not reported, and the EV slot is free. -/
def State.eventDue (s : State) : Bool :=
  s.events.latched &&& ~~~s.events.masked &&& ~~~s.events.reported != 0 && !s.eventSlotTaken

/-- Queuing the EV: it joins the own queue at the back, and every kind it carries becomes reported (R157). -/
def State.queueEvent (s : State) : State :=
  { s with
    ret := { s.ret with own := s.ret.own ++ [.event s.eventMessage] },
    events := { s.events with reported := s.events.reported ||| s.events.latched } }

/-- The test of R157, made at the end of each claim that can change its conditions (log 12). -/
def State.reportEvents (s : State) : State := if s.eventDue then s.queueEvent else s

end Sys2Proof.Machine
end

