-- ==== Sys2Proof/Machine/Memory.lean ====
section
/-! DEFINITION. The table memory (02 2.1, R22, R23): parity, reading and writing a word, and runs of words. -/

namespace Sys2Proof.Machine

/-- The parity bit kept with a word: 1 when an odd number of its 30 value bits are 1 (even parity; DESIGN CHOICE, log 9). -/
def parityOf (t : Triple) : Bool :=
  let odd (v : Comp) : Bool := [0, 1, 2, 3, 4, 5, 6, 7, 8, 9].foldl (fun p i => p ^^ v.getLsbD i) false
  odd t.c0 ^^ odd t.c1 ^^ odd t.c2

/-- A word as a write stores it: the values and a parity bit computed from them (R22). -/
def storedWord (t : Triple) : TableWord := ⟨t, parityOf t⟩

/-- What a word no write has listed reads as: zeros with right parity (DESIGN CHOICE, log 8). -/
def unlistedWord : TableWord := storedWord Triple.zero

/-- The address of word `i` of a bank (log 11). -/
def wordAddr (b : Bank) (i : Comp) : Nat := b.val * Config.wordsPerBank + i.toNat

/-- The canonical form: addresses strictly rising, no listed word equal to an unlisted one. -/
abbrev Memory.wf (m : Memory) : Prop :=
  m.Pairwise (fun x y => x.1 < y.1) ∧ ∀ c ∈ m, c.2 ≠ unlistedWord

/-- The word stored at an address. -/
def Memory.at : Memory → Nat → TableWord
  | [], _ => unlistedWord
  | (b, w) :: m, a => if a = b then w else Memory.at m a

/-- The memory with a word stored at an address, in canonical form. -/
def Memory.store : Memory → Nat → TableWord → Memory
  | [], a, v => if v = unlistedWord then [] else [(a, v)]
  | (b, w) :: m, a, v =>
      if a < b then (if v = unlistedWord then (b, w) :: m else (a, v) :: (b, w) :: m)
      else if a = b then (if v = unlistedWord then m else (a, v) :: m)
      else (b, w) :: Memory.store m a v

/-- Writing three values to a word of a bank (R22). -/
def writeWord (m : Memory) (b : Bank) (i : Comp) (t : Triple) : Memory := m.store (wordAddr b i) (storedWord t)

/-- What one read yields: the values, and whether it met a parity fault (R22). -/
structure ReadResult where
  values : Triple
  faulty : Bool
deriving DecidableEq, Repr

/-- The `n`-th read of the table memory (R22). Without a disturbance the stored parity is checked against the stored
values; with one the read is faulty and yields the values that came from the memory (log 6). -/
def readWord (disturb : Nat → Option Triple) (m : Memory) (n : Nat) (b : Bank) (i : Comp) : ReadResult :=
  match disturb n with
  | some v => ⟨v, true⟩
  | none =>
      let w := m.at (wordAddr b i)
      ⟨w.values, w.parity != parityOf w.values⟩

/-- Words 0 to `k - 1` of a bank written with zeros (R48, R54). -/
def zeroWords (m : Memory) (b : Bank) : Nat → Memory
  | 0 => m
  | k + 1 => writeWord (zeroWords m b k) b (BitVec.ofNat 10 k) Triple.zero

/-- Words 0 to `k - 1` of a bank copied from another bank, reads sound (R49). -/
def copyWords (m : Memory) (source dest : Bank) : Nat → Memory
  | 0 => m
  | k + 1 =>
      let m' := copyWords m source dest k
      writeWord m' dest (BitVec.ofNat 10 k) (m'.at (wordAddr source (BitVec.ofNat 10 k))).values

/-- A run of words written to a bank from word `start` upward (R58). -/
def writeRun (m : Memory) (b : Bank) (start : Nat) : List Triple → Memory
  | [] => m
  | t :: ts => writeRun (writeWord m b (BitVec.ofNat 10 start) t) b (start + 1) ts

/-- A run of `count` words read from word `start` upward, the first being the `n`-th read (R40). -/
def readRun (disturb : Nat → Option Triple) (m : Memory) (b : Bank) (start n : Nat) : Nat → List ReadResult
  | 0 => []
  | count + 1 => readWord disturb m n b (BitVec.ofNat 10 start) :: readRun disturb m b (start + 1) (n + 1) count

end Sys2Proof.Machine
end

