-- ==== Sys2Proof/Machine/Ops.lean ====
section
/-! DEFINITION. The shared operations: how a step takes place, the output lanes, replies, the moves of banks (02 2.3,
2.6), the job queue (R46, R47, R64), and the taking of a command at the head of the command queue (R140 to R144). -/

namespace Sys2Proof.Machine

/-! ### How a step takes place -/

/-- One step of the part. While the reset pin is asserted nothing takes place (R179). `event` answers `none` when the
step's cause is not present: it then names an event that does not take place, and the state stays as it is (log 2).
When it takes place, the EV condition is tested at the end of its last claim (R157; log 12). -/
def takeStep (event : State → Option State) (s : State) : Host.Outcome State Fault Refusal :=
  .next (if s.resetHeld then s else
    match event s with
    | none => s
    | some t => t.reportEvents)

/-! ### Lanes -/

/-- A packet handed to the downstream forward lane, which sends it whole (R135, R136) unless the reset pin cuts it off
(R179; log 37). -/
def State.forward (s : State) (bytes : List Byte) : State :=
  { s with downOut := s.downOut ++ [⟨bytes, true⟩], downHanded := s.downHanded + 1 }

/-- A message sent whole on the upstream return lane (R165). -/
def State.sendUp (s : State) (bytes : List Byte) : State := { s with upOut := s.upOut ++ [⟨bytes, true⟩] }

/-- A good or malformed packet shows that the lane carries a signal: the timer restarts with the setting in force
(R132), and NO_SIGNAL is left for HUNT, raising SIGNAL_FOUND (R124). -/
def State.signalPresent (s : State) : State :=
  if s.rx.state = .noSignal then
    { s with rx := { s.rx with state := .hunt, timer := some s.rx.setting } }.raise .signalFound
  else { s with rx := { s.rx with timer := some s.rx.setting } }

/-- The frame in progress ends broken: counted and FRAME_BROKEN raised (R131). -/
def State.frameBroken (s : State) : State :=
  { s with rx := { s.rx with brokenFrames := saturate16 s.rx.brokenFrames } }.raise .frameBroken

/-- The bytes of the message being sent on the upstream return lane. -/
def State.sendingBytes (s : State) : Option (List Byte) :=
  match s.ret.sending with
  | none => none
  | some .own => s.ret.own.head?.map OwnMessage.packet
  | some .pass => s.ret.pass.head?
  | some (.uncounted bytes) => some bytes

/-- What the upstream return lane carries: the message being sent, filler while none is, nothing while the reset pin is
asserted (R165, R179; log 29). -/
def State.returnLane (s : State) : Option (List Byte) :=
  if s.resetHeld then none else some (s.sendingBytes.getD returnFiller)

/-! ### Replies -/

/-- A reply made ready: its content is fixed, with the part address of this moment as source address, and it joins the
own queue at the back (R145, R154, R172). -/
def State.reply (s : State) (tag code : Byte) (status : Status) (payload : List Byte) : State :=
  { s with ret := { s.ret with own := s.ret.own ++ [.reply ⟨s.address, tag, code, status, payload⟩] } }

/-! ### Bank map -/

/-- A handle's record. -/
def BankMap.record (b : BankMap) (h : Handle) : HandleRecord := b.handles[h.val]

/-- A handle's record changed. -/
def BankMap.modify (b : BankMap) (h : Handle) (f : HandleRecord → HandleRecord) : BankMap :=
  { b with handles := b.handles.set h.val (f (b.record h)) }

/-- A bank whose side record ends joins the back of the free list, or the quarantine set when the record carries a
fault mark (R32). -/
def BankMap.giveUp (b : BankMap) (side : Side) : BankMap :=
  if side.mark then { b with quarantine := b.quarantine ++ [side.bank] } else { b with free := b.free ++ [side.bank] }

/-- The active side released, when there is one (R32). -/
def BankMap.releaseActive (b : BankMap) (h : Handle) : BankMap :=
  match (b.record h).active with
  | none => b
  | some side => (b.modify h fun r => { r with active := none }).giveUp side

/-- The retained side released, when there is one (R32). -/
def BankMap.releaseRetained (b : BankMap) (h : Handle) : BankMap :=
  match (b.record h).retained with
  | none => b
  | some side => (b.modify h fun r => { r with retained := none }).giveUp side

/-- The staged side released, when there is one, and the staged state NONE (R32, R44, R61). -/
def BankMap.releaseStaged (b : BankMap) (h : Handle) : BankMap :=
  match (b.record h).staged with
  | none => b.modify h fun r => { r with stagedState := .none }
  | some side => (b.modify h fun r => { r with staged := none, stagedState := .none }).giveUp side

/-- The staged bank goes directly to the quarantine set, and the staged side ends (R33, R50, R53). -/
def BankMap.quarantineStaged (b : BankMap) (h : Handle) : BankMap :=
  match (b.record h).staged with
  | none => b.modify h fun r => { r with stagedState := .none }
  | some side =>
      let b' := b.modify h fun r => { r with staged := none, stagedState := .none }
      { b' with quarantine := b'.quarantine ++ [side.bank] }

/-- Commit application at one handle (R37): the old active side is retained under a guard or released without one, and
the staged side becomes the active side. -/
def BankMap.applyHandle (underGuard : Bool) (b : BankMap) (h : Handle) : BankMap :=
  let b' :=
    if underGuard then
      match (b.record h).active with
      | none => b
      | some side => b.modify h fun r => { r with active := none, retained := some side }
    else b.releaseActive h
  b'.modify h fun r => { r with active := r.staged, staged := none, stagedState := .none }

/-- Commit application at every handle of the set, in increasing number (R37). -/
def BankMap.applyCommit (b : BankMap) (set : HandleSet) (underGuard : Bool) : BankMap :=
  allHandles.foldl (fun acc h => if set.has h then acc.applyHandle underGuard h else acc) b

/-- Confirm: every retained side released, in increasing handle number (R38). -/
def BankMap.confirm (b : BankMap) : BankMap := allHandles.foldl BankMap.releaseRetained b

/-- Rollback at one handle: its active side is released, and its retained side, if present, becomes active (R38). -/
def BankMap.rollbackHandle (b : BankMap) (h : Handle) : BankMap :=
  (b.releaseActive h).modify h fun r => { r with active := r.retained, retained := none }

/-- Rollback: every handle with a retained side, and every handle of the guarded set without one (it held no active
bank before the guarded commit), in increasing number (R38). -/
def BankMap.rollback (b : BankMap) (set : HandleSet) : BankMap :=
  allHandles.foldl
    (fun acc h => if (acc.record h).retained.isSome || set.has h then acc.rollbackHandle h else acc) b

/-- Link reset: every staged side released, in increasing handle number (R44). -/
def BankMap.releaseAllStaged (b : BankMap) : BankMap :=
  allHandles.foldl (fun acc h => if (acc.record h).stagedState = .none then acc else acc.releaseStaged h) b

/-- The fault mark set on a side record (R35). -/
def Side.withMark (side : Side) : Side := { side with mark := true }

/-! ### Bank engine -/

/-- The job works on the staged bank of the handle (R45). -/
def JobWork.worksOn (w : JobWork) (h : Handle) : Bool :=
  match w with
  | .fill h' => h' == h
  | .copy h' _ _ => h' == h
  | .check h' _ _ => h' == h
  | .scrub _ => false

/-- The job is a COPY for the handle (R39). -/
def JobWork.copies (w : JobWork) (h : Handle) : Bool :=
  match w with
  | .copy h' _ _ => h' == h
  | _ => false

/-- The job is a SCRUB of the bank (R63). -/
def JobWork.scrubs (w : JobWork) (b : Bank) : Bool :=
  match w with
  | .scrub b' => b' == b
  | _ => false

/-- The job queue has room (R47). -/
def State.jobRoom (s : State) : Bool := s.jobs.length < Config.jobRoom

/-- A job joins the queue at the back (R46). -/
def State.addJob (s : State) (job : Job) : State := { s with jobs := s.jobs ++ [job] }

/-- The partial work a running job leaves in its bank when it is stopped after `k` words (R46, R64). -/
def partialWork (m : Memory) (b : BankMap) (k : Nat) : JobWork → Memory
  | .fill h => match (b.record h).staged with
      | some side => zeroWords m side.bank k
      | none => m
  | .copy h source _ => match (b.record h).staged with
      | some side => copyWords m source side.bank k
      | none => m
  | .check _ _ _ => m
  | .scrub bank => zeroWords m bank k

/-- The running job stops where it is (R46): how many words it had written is a free value (log 10). -/
def State.stopRunning (s : State) : State :=
  match s.jobs with
  | [] => s
  | job :: _ =>
      { s with
        mem := partialWork s.mem s.banks (min Config.wordsPerBank (Config.abandonedProgress s.abandons)) job.work,
        abandons := s.abandons + 1 }

/-- The job of a handle leaves the queue: abandoned when it is running, removed when it waits (R46, R61). -/
def State.dropJobOf (s : State) (h : Handle) : State :=
  let s' := match s.jobs with
    | [] => s
    | job :: _ => if job.work.worksOn h then s.stopRunning else s
  { s' with jobs := s'.jobs.filter fun job => !job.work.worksOn h }

/-! ### Taking the head command -/

/-- How the execution of a command ends (R142): a reply made ready at once, an operation started whose reply is
deferred (R144), or a wait at the head for job room (R143). -/
inductive CommandResult where
  | reply (status : Status) (payload : List Byte) (s : State)
  | deferred (s : State)
  | wait (s : State)

/-- The head command has ended or waits: a reply joins the own queue, and an ended command leaves the queue
(R142, R143). -/
def finishCommand (c : CommandPacket) : CommandResult → State
  | .reply status payload s =>
      let s' := s.reply c.tag c.code status payload
      { s' with cmd := { s'.cmd with queue := s'.cmd.queue.tail, waiting := false } }
  | .deferred s => { s with cmd := { s.cmd with queue := s.cmd.queue.tail, waiting := false } }
  | .wait s => { s with cmd := { s.cmd with waiting := true } }

/-- The head command is taken and executed when its code is one of those `codes` accepts, it is not waiting for job
room, and a reply slot is free: one slot is reserved and the command runs (R140, R142). -/
def takeHead (codes : Byte → Bool) (body : CommandPacket → State → CommandResult) (s : State) : Option State :=
  match s.cmd.queue with
  | [] => none
  | c :: _ =>
      if codes c.code = true ∧ s.cmd.waiting = false ∧ s.cmd.slots < Config.replySlots then
        some (finishCommand c (body c { s with cmd := { s.cmd with slots := s.cmd.slots + 1 } }))
      else none

/-- Common check 2 (R141): the payload length disagrees with the command code. The reply carries no payload (R178). -/
def withLength (len : Nat) (body : CommandPacket → State → CommandResult) (c : CommandPacket) (s : State) :
    CommandResult :=
  if c.payload.length = len then body c s else .reply .badLength [] s

/-- Common check 3 (R141): the handle argument, the first byte of the payload, is outside 1-10. The reply carries no
payload (R178). -/
def withHandle (body : Handle → CommandPacket → State → CommandResult) (c : CommandPacket) (s : State) :
    CommandResult :=
  match handleOf (byteAt c.payload 0) with
  | some h => body h c s
  | none => .reply .badHandle [] s

/-! ### Command codes (Table 11.7-1) -/

def codeIdentify : Byte := 0x01
def codeReadStatus : Byte := 0x02
def codeClaimAddress : Byte := 0x03
def codeSetLinkOptions : Byte := 0x04
def codeAckEvents : Byte := 0x05
def codeSetEventMask : Byte := 0x06
def codeSetMode : Byte := 0x10
def codeOpenTable : Byte := 0x20
def codeWriteTable : Byte := 0x21
def codeCloseTable : Byte := 0x22
def codeDiscardTable : Byte := 0x23
def codeScrubBank : Byte := 0x24
def codeReleaseTable : Byte := 0x25
def codeReadTable : Byte := 0x26
def codeWriteConfig : Byte := 0x30
def codeReadConfig : Byte := 0x31
def codeCommit : Byte := 0x32
def codeCancelCommit : Byte := 0x33
def codeConfirmCommit : Byte := 0x34
def codeRollbackCommit : Byte := 0x35
def codeCaptureSignature : Byte := 0x40
def codeReadWindow : Byte := 0x41

/-- The 22 codes the part knows (Table 8.8-1). -/
def knownCodes : List Byte :=
  [codeIdentify, codeReadStatus, codeClaimAddress, codeSetLinkOptions, codeAckEvents, codeSetEventMask, codeSetMode,
   codeOpenTable, codeWriteTable, codeCloseTable, codeDiscardTable, codeScrubBank, codeReleaseTable, codeReadTable,
   codeWriteConfig, codeReadConfig, codeCommit, codeCancelCommit, codeConfirmCommit, codeRollbackCommit,
   codeCaptureSignature, codeReadWindow]

end Sys2Proof.Machine
end

