-- ==== Sys2Proof/Machine/Signatures.lean ====
section
/-! DEFINITION. The signature unit's work: running signatures (R106), the evaluation (R107 to R112), and the capture
unit's attempts (R116 to R118). -/

namespace Sys2Proof.Machine

/-- The windows in increasing number. -/
def allWindows : List (Fin 4) := [0, 1, 2, 3]

/-- A line fed to a signature over a rectangle (R104, R106): positions x0 to x1 that the line holds, when the line
number lies within y0-y1. -/
def feedLine (r : Rect) (y : Nat) (pixels : List Triple) (reg : Word) : Word :=
  if r.y0.toNat ≤ y ∧ y ≤ r.y1.toNat then
    crc32Triples reg ((pixels.drop r.x0.toNat).take (r.x1.toNat + 1 - r.x0.toNat))
  else reg

/-- A function applied to the checkers whose window is in CHECK in a configuration; the others are left. -/
def onChecked (c : Configuration) (checkers : Vector WindowChecker 4) (f : WindowRecord → WindowChecker → WindowChecker) :
    Vector WindowChecker 4 :=
  let one (k : Fin 4) : WindowChecker :=
    if c.windows[k.val].mode = .check then f c.windows[k.val] checkers[k.val] else checkers[k.val]
  #v[one 0, one 1, one 2, one 3]

/-- Running signatures at an FS (R106). -/
def SignatureUnit.startFrame (u : SignatureUnit) (c : Configuration) : SignatureUnit :=
  { u with checkers := onChecked c u.checkers fun _ w => { w with running := crc32Start } }

/-- An FS at the capture unit: ARMED moves to RUNNING (R116). -/
def Capture.startFrame : Capture → Capture
  | .armed r => .running r crc32Start
  | other => other

/-- A line at the two taps (R21, R106, R116). -/
def SignatureUnit.tapLine (u : SignatureUnit) (c : Configuration) (y : Nat) (input output : List Triple) :
    SignatureUnit :=
  { u with
    checkers := onChecked c u.checkers fun rec w => { w with running := feedLine rec.rect y output w.running },
    capture := match u.capture with
      | .running r sig => .running r (feedLine r.rect y (match r.point with | .input => input | .output => output) sig)
      | other => other }

/-- The rectangle lies within a frame of width `w` and height `h` (R108): x1 ≤ w - 1 and y1 ≤ h - 1. -/
def Rect.within (r : Rect) (w h : Half) : Bool := r.x1.toNat + 1 ≤ w.toNat && r.y1.toNat + 1 ≤ h.toNat

/-- The judgement of a window at an evaluation (R107). -/
inductive Verdict where
  | notJudged | skipped | matched | mismatched
deriving DecidableEq, Repr

/-- A window's verdict (R107 to R110). -/
def judge (rec : WindowRecord) (w : WindowChecker) (width height : Half) : Verdict :=
  match rec.mode with
  | .off => .notJudged
  | .check =>
      if !rec.rect.within width height then .skipped
      else if w.running = rec.expected then .matched
      else .mismatched

/-- A checker after its verdict (R108 to R110). -/
def WindowChecker.judged (w : WindowChecker) : Verdict → WindowChecker
  | .notJudged => w
  | .skipped => { w with skipped := saturate16 w.skipped }
  | .matched => { w with count := 0, matched := saturate16 w.matched, lastSignature := some w.running }
  | .mismatched =>
      { w with count := saturate4 w.count, mismatched := saturate16 w.mismatched, lastSignature := some w.running }

/-- The verdict of window `k` in the state. -/
def State.verdict (s : State) (k : Fin 4) : Verdict :=
  judge s.cfg.active.windows[k.val] s.sig.checkers[k.val] s.rx.width s.rx.height

/-- The checker of window `k` after the evaluation. -/
def State.judgedChecker (s : State) (k : Fin 4) : WindowChecker := s.sig.checkers[k.val].judged (s.verdict k)

/-- The windows that mismatch at this evaluation (R107). -/
def State.mismatches (s : State) : BitVec 4 :=
  allWindows.foldl (fun acc k => if s.verdict k = .mismatched then acc ||| (1#4 <<< k.val) else acc) 0

/-- Window `k` is a guard member in GUARDING (R91, R111). -/
def State.guards (s : State) (k : Fin 4) : Bool :=
  decide (s.commit.state = .guarding) && s.cfg.active.windows[k.val].guardMember

/-- Window `k` qualifies for fallback (R111): it mismatched, its count is at or above its threshold, its action is
FALLBACK, and it is not a guard member in GUARDING. -/
def State.qualifies (s : State) (k : Fin 4) : Bool :=
  decide (s.verdict k = .mismatched) && decide (s.cfg.active.windows[k.val].threshold ≤ (s.judgedChecker k).count) &&
    decide (s.cfg.active.windows[k.val].action = .fallback) && !s.guards k

/-- A guard member's verdict is among those asked for. -/
def State.memberWith (s : State) (v : Verdict) : Bool :=
  allWindows.any fun k => s.cfg.active.windows[k.val].guardMember && decide (s.verdict k = v)

/-- The outcome formed from the guard members (R92, R112). -/
def State.guardOutcome (s : State) : GuardOutcome :=
  if s.memberWith .mismatched then .failed else if s.memberWith .skipped then .notCounted else .counted

/-- The evaluation at the FE of a clean ACTIVE frame (R107 to R112): the windows are judged, the mismatch set is
replaced, WINDOW_MISMATCH is raised by a mismatch, a qualifying window places FALLBACK in the pending mode (R8), and in
GUARDING an outcome is handed to the commit unit. -/
def State.evaluate (s : State) : State :=
  let s' := { s with
    sig := { s.sig with
      checkers := #v[s.judgedChecker 0, s.judgedChecker 1, s.judgedChecker 2, s.judgedChecker 3],
      mismatchSet := s.mismatches },
    pix := if allWindows.any s.qualifies then { s.pix with pendingMode := some .fallback } else s.pix,
    commit := if s.commit.state = CommitState.guarding then { s.commit with handed := s.commit.handed ++ [s.guardOutcome] }
      else s.commit }
  s'.raiseIf (s.mismatches != 0) .windowMismatch

/-! ### Capture attempts -/

/-- The payload of a CAPTURE_SIGNATURE reply of status OUTSIDE (R117, Table 11.7-2): the declared size. -/
def outsidePayload (width height : Half) : List Byte := zeros 14 ++ bytes16 width ++ bytes16 height ++ zeros 4

/-- The payload of a CAPTURE_SIGNATURE reply of status OK (R117, Table 11.7-2). -/
def capturedPayload (r : CaptureRecord) (frame : Half) (mode : Mode) (signature : Word) : List Byte :=
  [r.point.byte, 0] ++ r.rect.bytes ++ bytes16 frame ++ [mode.byte, 0] ++ zeros 4 ++ bytes32 signature

/-- The payload of a CAPTURE_SIGNATURE reply of status NO_CLEAN_FRAME (R117, Table 11.7-2): the attempt count. -/
def noCleanFramePayload (attempts : Nat) : List Byte := [0, natByte attempts] ++ zeros 20

/-- A broken attempt (R117, R118): the attempt count rises; at 4 the command is answered NO_CLEAN_FRAME and the unit is
IDLE, below 4 it takes the state `again`. -/
def State.brokenAttempt (s : State) (r : CaptureRecord) (again : CaptureRecord → Capture) : State :=
  if r.attempts + 1 < Config.captureAttempts then
    { s with sig := { s.sig with capture := again { r with attempts := r.attempts + 1 } } }
  else
    { s with sig := { s.sig with capture := .idle } }.reply r.tag r.code .noCleanFrame (noCleanFramePayload (r.attempts + 1))

/-- An FE ends the frame (R117). -/
def State.captureFrameEnd (s : State) (clean : Bool) : State :=
  match s.sig.capture with
  | .running r signature =>
      if !r.rect.within s.rx.width s.rx.height then
        { s with sig := { s.sig with capture := .idle } }.reply r.tag r.code .outside
          (outsidePayload s.rx.width s.rx.height)
      else if clean then
        { s with sig := { s.sig with capture := .idle } }.reply r.tag r.code .ok
          (capturedPayload r s.rx.lastFrame s.pix.mode signature)
      else s.brokenAttempt r .armed
  | _ => s

/-- An overrun start ends the frame (R118): below 4 attempts the unit stays RUNNING, its signature set afresh. -/
def State.captureOverrun (s : State) : State :=
  match s.sig.capture with
  | .running r _ => s.brokenAttempt r fun r' => .running r' crc32Start
  | _ => s

/-- Signal loss ends the frame (R118): below 4 attempts the unit is ARMED again. -/
def State.captureSignalLost (s : State) : State :=
  match s.sig.capture with
  | .running r _ => s.brokenAttempt r .armed
  | _ => s

end Sys2Proof.Machine
end

