-- ==== Sys2Proof/Machine/CommitOps.lean ====
section
/-! DEFINITION. What the commit unit does to the part: application of a commit (R81), confirm (R95), application of a
rollback (R98), and its response to a frame boundary (R80). -/

namespace Sys2Proof.Machine

/-- Every consecutive mismatch count set to 0 (R81, R98, R113). -/
def SignatureUnit.clearCounts (u : SignatureUnit) : SignatureUnit :=
  { u with checkers := u.checkers.map fun w => { w with count := 0 } }

/-- The target is satisfied by a boundary with frame number `f` (R80). -/
def Target.satisfiedBy (t : Target) (f : Half) : Bool :=
  match t with
  | .next => true
  | .at n => (f - n).toNat < 32768

/-- Application of a commit (R81). -/
def State.applyCommit (s : State) (p : PendingCommit) : State :=
  let underGuard : Bool := p.guardFrames != 0
  { s with
    banks := s.banks.applyCommit p.handles underGuard,
    cfg :=
      { active := if p.includeConfig then s.cfg.staged else s.cfg.active,
        staged := s.cfg.staged,
        saved := if underGuard then some s.cfg.active else s.cfg.saved,
        frozen := if p.includeConfig then false else s.cfg.frozen },
    sig := s.sig.clearCounts,
    commit := { s.commit with
      state := if underGuard then .guarding else .idle,
      pendingCommit := none,
      guardedSet := if underGuard then some p.handles else s.commit.guardedSet,
      guardCounter := if underGuard then p.guardFrames else s.commit.guardCounter,
      lastApplied := true } }.raise .commitApplied

/-- Confirm (R95): the retained sides are released, the saved configuration and the guard end, and COMMIT_CONFIRMED is
raised. -/
def State.confirmCommit (s : State) : State :=
  { s with
    banks := s.banks.confirm,
    cfg := { s.cfg with saved := none },
    commit := { s.commit with state := .idle, guardedSet := none, guardCounter := 0 } }.raise .commitConfirmed

/-- Application of a rollback (R98). In ROLLBACK_PENDING the saved configuration and the guarded handle set are present
(R74, R75). -/
def State.applyRollback (s : State) : State :=
  let restored := s.cfg.saved.getD s.cfg.active
  { s with
    banks := s.banks.rollback (s.commit.guardedSet.getD 0),
    cfg := { active := restored, staged := restored, saved := none, frozen := false },
    sig := s.sig.clearCounts,
    commit := { s.commit with state := .idle, guardedSet := none, guardCounter := 0 } }.raise .rolledBack

/-- A frame boundary with frame number `f` at the commit unit (R80, R98). -/
def State.commitBoundary (s : State) (f : Half) : State :=
  match s.commit.state with
  | .idle => s
  | .guarding => s
  | .rollbackPending => s.applyRollback
  | .pending =>
      match s.commit.pendingCommit with
      | none => s
      | some p => if p.target.satisfiedBy f then s.applyCommit p else s

/-- A frame boundary at the pixel path: the pending mode becomes the mode (R9). -/
def State.applyPendingMode (s : State) : State :=
  match s.pix.pendingMode with
  | none => s
  | some m => { s with pix := { mode := m, pendingMode := none } }.raiseIf (decide (m = Mode.fallback)) .fallbackEntered

/-- A frame start at the signature unit, boundary or overrun start (R106, R116). -/
def State.signatureFrameStart (s : State) : State :=
  { s with sig := { s.sig.startFrame s.cfg.active with capture := s.sig.capture.startFrame } }

end Sys2Proof.Machine
end

