-- ==== Sys2Proof/Machine/CommitCommands.lean ====
section
/-! DEFINITION. The commands on the configuration and the commit unit: WRITE_CONFIG, READ_CONFIG, COMMIT, CANCEL_COMMIT
(Section 4), CONFIRM_COMMIT, ROLLBACK_COMMIT and GUARD_OUTCOME (Section 5). -/

namespace Sys2Proof.Machine

/-- WRITE_CONFIG (R71). -/
def writeConfigBody : CommandPacket → State → CommandResult :=
  withLength 22 fun c s =>
    let kind := byteAt c.payload 0
    let index := byteAt c.payload 1
    if s.cfg.frozen then .reply .pending (zeros 2) s
    else
      match recordNameOf kind index with
      | none => .reply .badArgument (zeros 2) s
      | some name =>
          match s.cfg.staged.withRecord name (c.payload.drop 2) with
          | none => .reply .badArgument (zeros 2) s
          | some staged => .reply .ok [kind, index] { s with cfg := { s.cfg with staged := staged } }

/-- WRITE_CONFIG (R71). -/
def execWriteConfig (s : State) : Host.Outcome State Fault Refusal :=
  takeStep (takeHead (· == codeWriteConfig) writeConfigBody) s

/-- The configuration a side code names (Table 11.7-1); the saved one may be absent (R73). -/
def ConfigStore.side (c : ConfigStore) (code : Byte) : Option Configuration :=
  if code = 0 then some c.active else if code = 1 then some c.staged else c.saved

/-- The payload of a refused READ_CONFIG: the freeze flag, which every READ_CONFIG reply reports (R70), and zeros
(R178). -/
def State.refusedReadConfig (s : State) : List Byte := zeros 3 ++ [flagByte s.cfg.frozen] ++ zeros 20

/-- READ_CONFIG (R70, R73). Check 3 refuses side SAVED in IDLE and PENDING; a saved configuration exists exactly in the
other two states (R75). -/
def readConfigBody : CommandPacket → State → CommandResult :=
  withLength 3 fun c s =>
    let side := byteAt c.payload 0
    let kind := byteAt c.payload 1
    let index := byteAt c.payload 2
    if 2 < side.toNat then .reply .badArgument s.refusedReadConfig s
    else
      match recordNameOf kind index with
      | none => .reply .badArgument s.refusedReadConfig s
      | some name =>
          if side = 2 ∧ (s.commit.state = .idle ∨ s.commit.state = .pending) then
            .reply .wrongState s.refusedReadConfig s
          else
            match s.cfg.side side with
            | none => .reply .wrongState s.refusedReadConfig s
            | some cfg => .reply .ok ([side, kind, index, flagByte s.cfg.frozen] ++ cfg.area name) s

/-- READ_CONFIG (R73). -/
def execReadConfig (s : State) : Host.Outcome State Fault Refusal :=
  takeStep (takeHead (· == codeReadConfig) readConfigBody) s

/-! ### COMMIT -/

/-- The arguments of a COMMIT (Table 11.7-1, R76 check 3): `none` when one is malformed. -/
def pendingCommitOf (p : List Byte) : Option PendingCommit :=
  match targetOf (byteAt p 0) (halfAt p 1), handleSetOf (halfAt p 3) with
  | some target, some handles =>
      let includeConfig := flagAt p 5
      if 15 < (byteAt p 6).toNat ∨ (handles = 0 ∧ includeConfig = false) then none
      else some ⟨target, handles, includeConfig, (byteAt p 6).extractLsb' 0 4⟩
  | _, _ => none

/-- The lowest-numbered handle of the set that is not LOADED (R77 check 4). -/
def State.firstNotLoaded (s : State) (set : HandleSet) : Option Handle :=
  allHandles.find? fun h => set.has h && decide ((s.banks.record h).stagedState ≠ .loaded)

/-- The configuration that will be active (R77 check 5). -/
def State.futureConfig (s : State) (includeConfig : Bool) : Configuration :=
  if includeConfig then s.cfg.staged else s.cfg.active

/-- The lowest-numbered handle that fails the reference check (R77 check 5): named by the configuration, not in the
set, and without an active side. -/
def State.firstUnbound (s : State) (cfg : Configuration) (set : HandleSet) : Option Handle :=
  allHandles.find? fun h => cfg.names h && !set.has h && (s.banks.record h).active.isNone

/-- The target lies in the past (R78 check 6). -/
def State.targetPast (s : State) (t : Target) : Bool :=
  match t with
  | .next => false
  | .at n => s.rx.boundarySeen && decide ((s.rx.lastBoundary - n).toNat < 32768)

/-- The last boundary frame number with its indication, as an OK reply (R79) and a TARGET_PAST reply (R78; log 33) carry
them (Table 11.7-2). -/
def State.boundaryBytes (s : State) : List Byte :=
  bytes16 (if s.rx.boundarySeen then s.rx.lastBoundary else 0) ++ [flagByte s.rx.boundarySeen]

/-- A target as accepted (R79, Table 11.7-2); NEXT carries no frame number (log 17). -/
def Target.bytes : Target → List Byte
  | .next => [0, 0, 0]
  | .at n => 1 :: bytes16 n

/-- The handles of a set have their staged state changed (R79, R85). -/
def BankMap.setStagedStates (b : BankMap) (set : HandleSet) (st : StagedState) : BankMap :=
  allHandles.foldl (fun acc h => if set.has h then acc.modify h fun r => { r with stagedState := st } else acc) b

/-- A COMMIT accepted (R79). -/
def State.acceptCommit (s : State) (p : PendingCommit) : State :=
  { s with
    banks := s.banks.setStagedStates p.handles .committing,
    cfg := { s.cfg with frozen := s.cfg.frozen || p.includeConfig },
    commit := { s.commit with state := .pending, pendingCommit := some p, lastApplied := false } }

/-- COMMIT (R76 to R79): its six checks in order, then the acceptance. The reply to UNBOUND also
carries the staged state (log 15), and that to TARGET_PAST the indication of L, boundary seen (log 33). -/
def commitBody : CommandPacket → State → CommandResult :=
  withLength 7 fun c s =>
    match s.commit.state with
    | .pending => .reply .pending (zeros 8) s
    | .guarding => .reply .guardActive (zeros 8) s
    | .rollbackPending => .reply .guardActive (zeros 8) s
    | .idle =>
        match pendingCommitOf c.payload with
        | none => .reply .badArgument (zeros 8) s
        | some p =>
            match s.firstNotLoaded p.handles with
            | some h => .reply .wrongState (zeros 6 ++ [handleByte h, (s.banks.record h).stagedState.byte]) s
            | none =>
                match s.firstUnbound (s.futureConfig p.includeConfig) p.handles with
                | some h => .reply .unbound (zeros 6 ++ [handleByte h, (s.banks.record h).stagedState.byte]) s
                | none =>
                    if s.targetPast p.target then .reply .targetPast (zeros 3 ++ s.boundaryBytes ++ zeros 2) s
                    else .reply .ok (p.target.bytes ++ s.boundaryBytes ++ zeros 2) (s.acceptCommit p)

/-- COMMIT (R76 to R79). -/
def execCommit (s : State) : Host.Outcome State Fault Refusal := takeStep (takeHead (· == codeCommit) commitBody) s

/-! ### CANCEL_COMMIT, CONFIRM_COMMIT, ROLLBACK_COMMIT -/

/-- The payload of the three replies: the commit state after execution and the guard counter (Table 11.7-2; log 16). -/
def State.commitPayload (s : State) : List Byte := [s.commit.state.byte, s.commit.guardCounter.setWidth 8]

/-- A reply of one of the three commands. -/
def commitReply (status : Status) (s : State) : CommandResult := .reply status s.commitPayload s

/-- A pending commit cancelled (R85). -/
def State.cancelCommit (s : State) : State :=
  { s with
    banks := match s.commit.pendingCommit with
      | some p => s.banks.setStagedStates p.handles .loaded
      | none => s.banks,
    cfg := { s.cfg with frozen := false },
    commit := { s.commit with state := .idle, pendingCommit := none } }

/-- CANCEL_COMMIT (R85). -/
def cancelBody : CommandPacket → State → CommandResult :=
  withLength 0 fun _ s =>
    match s.commit.state with
    | .pending => commitReply .ok s.cancelCommit
    | .idle => commitReply (if s.commit.lastApplied then .late else .wrongState) s
    | .guarding => commitReply .guardActive s
    | .rollbackPending => commitReply .guardActive s

/-- CANCEL_COMMIT (R85). -/
def execCancelCommit (s : State) : Host.Outcome State Fault Refusal :=
  takeStep (takeHead (· == codeCancelCommit) cancelBody) s

/-- CONFIRM_COMMIT (R96). -/
def confirmBody : CommandPacket → State → CommandResult :=
  withLength 0 fun _ s =>
    match s.commit.state with
    | .guarding => commitReply .ok s.confirmCommit
    | .rollbackPending => commitReply .late s
    | .idle => commitReply .wrongState s
    | .pending => commitReply .wrongState s

/-- CONFIRM_COMMIT (R96). -/
def execConfirmCommit (s : State) : Host.Outcome State Fault Refusal :=
  takeStep (takeHead (· == codeConfirmCommit) confirmBody) s

/-- The guard has failed or is given up: the rollback waits for the next boundary (R93, R99). -/
def State.requestRollback (s : State) : State := { s with commit := { s.commit with state := .rollbackPending } }

/-- ROLLBACK_COMMIT (R99). -/
def rollbackBody : CommandPacket → State → CommandResult :=
  withLength 0 fun _ s =>
    match s.commit.state with
    | .guarding => commitReply .ok s.requestRollback
    | .rollbackPending => commitReply .ok s
    | .idle => commitReply .wrongState s
    | .pending => commitReply .wrongState s

/-- ROLLBACK_COMMIT (R99). -/
def execRollbackCommit (s : State) : Host.Outcome State Fault Refusal :=
  takeStep (takeHead (· == codeRollbackCommit) rollbackBody) s

/-! ### GUARD_OUTCOME -/

/-- An outcome at the commit unit (R93): in GUARDING it counts, fails or changes nothing; in any other state it is
discarded. A counter of 0 in GUARDING, which no run reaches, confirms as 1 does (log 7). -/
def State.actOnOutcome (s : State) (o : GuardOutcome) : State :=
  match s.commit.state, o with
  | .guarding, .counted =>
      if s.commit.guardCounter ≤ 1 then s.confirmCommit
      else { s with commit := { s.commit with guardCounter := s.commit.guardCounter - 1 } }
  | .guarding, .failed => s.requestRollback
  | .guarding, .notCounted => s
  | _, _ => s

/-- The oldest outcome handed over is taken (R93; log 25). -/
def takeOutcome (s : State) : Option State :=
  match s.commit.handed with
  | [] => none
  | o :: rest => some ({ s with commit := { s.commit with handed := rest } }.actOnOutcome o)

/-- GUARD_OUTCOME (R93). -/
def execGuardOutcome (s : State) : Host.Outcome State Fault Refusal := takeStep takeOutcome s

end Sys2Proof.Machine
end

