-- ==== Sys2Proof/Machine/Jobs.lean ====
section
/-! DEFINITION. The ends of the bank engine's jobs (R48 to R55): FILL_JOB_END, COPY_JOB_END, CHECK_JOB_END and
SCRUB_JOB_END. A job's whole work is done at its end; until then nothing can see it (R23, R40, R55; log 10). -/

namespace Sys2Proof.Machine

/-- The running job is removed, and the record that has become first is the running one (R46). -/
def State.endJob (s : State) : State := { s with jobs := s.jobs.tail }

/-- The bank map with a handle's staged state changed. -/
def BankMap.setStagedState (b : BankMap) (h : Handle) (st : StagedState) : BankMap :=
  b.modify h fun r => { r with stagedState := st }

/-- The bank map with a handle's staged key count set and its staged state changed (R49, R52). -/
def BankMap.finishStaged (b : BankMap) (h : Handle) (keyCount : Nat) (st : StagedState) : BankMap :=
  b.modify h fun r =>
    { r with staged := r.staged.map fun side => { side with keyCount := keyCount }, stagedState := st }

/-! ### FILL -/

/-- A FILL ends (R48): every word of the staged bank is zero, the staged state is OPEN, OPEN_TABLE is answered OK. -/
def endFill (s : State) : Option State :=
  match s.jobs with
  | ⟨.fill h, tag, code⟩ :: _ =>
      (s.banks.record h).staged.map fun side =>
        ({ s.endJob with
            mem := zeroWords s.mem side.bank Config.wordsPerBank,
            banks := s.banks.setStagedState h .opened }).reply tag code .ok
          [handleByte h, bankByte side.bank, 0, 0, 0, 0]
  | _ => none

/-- FILL_JOB_END (R48). -/
def execFillJobEnd (s : State) : Host.Outcome State Fault Refusal := takeStep endFill s

/-! ### COPY -/

/-- How a COPY comes to its end, with the memory it leaves and the number of the next read (R49, R50). -/
inductive CopyEnd where
  | copied (m : Memory) (next : Nat)
  | sourceFault (i : Nat) (m : Memory) (next : Nat)
  | destFault (i : Nat) (m : Memory) (next : Nat)
deriving DecidableEq, Repr

/-- A COPY from word `i` on, `remaining` words: each source word is read, written to the destination, and read back
there; the first fault stops it (R49, R50). -/
def copyFrom (disturb : Nat → Option Triple) (source dest : Bank) (m : Memory) (i n : Nat) : Nat → CopyEnd
  | 0 => .copied m n
  | remaining + 1 =>
      let r := readWord disturb m n source (BitVec.ofNat 10 i)
      if r.faulty then .sourceFault i m (n + 1)
      else
        let m' := writeWord m dest (BitVec.ofNat 10 i) r.values
        if (readWord disturb m' (n + 1) dest (BitVec.ofNat 10 i)).faulty then .destFault i m' (n + 2)
        else copyFrom disturb source dest m' (i + 1) (n + 2) remaining

/-- The source side takes a fault mark when the source bank is still the active side of the handle (R50). -/
def BankMap.markSource (b : BankMap) (h : Handle) (source : Bank) : BankMap :=
  b.modify h fun r =>
    { r with active := r.active.map fun side => if side.bank = source then side.withMark else side }

/-- A COPY ends (R49, R50). -/
def endCopy (s : State) : Option State :=
  match s.jobs with
  | ⟨.copy h source keyCount, tag, code⟩ :: _ =>
      (s.banks.record h).staged.map fun side =>
        match copyFrom Config.readDisturbance source side.bank s.mem 0 s.reads Config.wordsPerBank with
        | .copied m n =>
            ({ s.endJob with mem := m, reads := n, banks := s.banks.finishStaged h keyCount .opened }).reply tag code .ok
              [handleByte h, bankByte side.bank, 0, 0, 0, 0]
        | .sourceFault i m n =>
            (({ s.endJob with
                mem := m, reads := n, banks := (s.banks.markSource h source).releaseStaged h }).raise .bankFault).reply
              tag code .fault ([handleByte h, bankByte source, 1, 0] ++ bytes16 (BitVec.ofNat 16 i))
        | .destFault i m n =>
            (({ s.endJob with mem := m, reads := n, banks := s.banks.quarantineStaged h }).raise .bankFault).reply
              tag code .fault ([handleByte h, bankByte side.bank, 2, 0] ++ bytes16 (BitVec.ofNat 16 i))
  | _ => none

/-- COPY_JOB_END (R49, R50). -/
def execCopyJobEnd (s : State) : Host.Outcome State Fault Refusal := takeStep endCopy s

/-! ### CHECK and SCRUB -/

/-- How a pass of reads over a bank ends: all sound, with the CRC-32 of the words read, or at the first fault; with the
number of the next read (R52 to R54). -/
inductive ScanEnd where
  | sound (crc : Word) (next : Nat)
  | faultAt (i : Nat) (next : Nat)
deriving DecidableEq, Repr

/-- The reads of a bank from word `i` on, `remaining` words, fed to the CRC-32 as a0, a1, a2 (R52, R104). -/
def scanFrom (disturb : Nat → Option Triple) (m : Memory) (b : Bank) (i n : Nat) (crc : Word) : Nat → ScanEnd
  | 0 => .sound crc n
  | remaining + 1 =>
      let r := readWord disturb m n b (BitVec.ofNat 10 i)
      if r.faulty then .faultAt i (n + 1)
      else scanFrom disturb m b (i + 1) (n + 1) (crc32Triple crc r.values) remaining

/-- A CHECK ends (R52, R53). -/
def endCheck (s : State) : Option State :=
  match s.jobs with
  | ⟨.check h expected keyCount, tag, code⟩ :: _ =>
      (s.banks.record h).staged.map fun side =>
        match scanFrom Config.readDisturbance s.mem side.bank 0 s.reads crc32Start Config.wordsPerBank with
        | .sound crc n =>
            if crc = expected then
              ({ s.endJob with reads := n, banks := s.banks.finishStaged h keyCount .loaded }).reply tag code .ok
                ([handleByte h, 0, 0, 0] ++ bytes32 crc)
            else
              ({ s.endJob with reads := n, banks := s.banks.setStagedState h .opened }).reply tag code .mismatch
                ([handleByte h, 0, 0, 0] ++ bytes32 crc)
        | .faultAt i n =>
            (({ s.endJob with reads := n, banks := s.banks.quarantineStaged h }).raise .bankFault).reply tag code .fault
              ([handleByte h, bankByte side.bank] ++ bytes16 (BitVec.ofNat 16 i) ++ zeros 4)
  | _ => none

/-- CHECK_JOB_END (R52, R53). -/
def execCheckJobEnd (s : State) : Host.Outcome State Fault Refusal := takeStep endCheck s

/-- A scrubbed bank leaves the quarantine set: sound, it joins the back of the free list; faulty, the withdrawn set
(R33, R34, R54). -/
def BankMap.endScrub (b : BankMap) (bank : Bank) (sound : Bool) : BankMap :=
  if sound then { b with quarantine := b.quarantine.erase bank, free := b.free ++ [bank] }
  else { b with quarantine := b.quarantine.erase bank, withdrawn := b.withdrawn ++ [bank] }

/-- A SCRUB ends (R54): every word is written with zeros, then every word is read back. -/
def endScrub (s : State) : Option State :=
  match s.jobs with
  | ⟨.scrub bank, tag, code⟩ :: _ =>
      let m := zeroWords s.mem bank Config.wordsPerBank
      some (match scanFrom Config.readDisturbance m bank 0 s.reads crc32Start Config.wordsPerBank with
        | .sound _ n =>
            ({ s.endJob with mem := m, reads := n, banks := s.banks.endScrub bank true }).reply tag code .ok
              [bankByte bank, 0, 0, 0]
        | .faultAt i n =>
            (({ s.endJob with mem := m, reads := n, banks := s.banks.endScrub bank false }).raise .bankFault).reply
              tag code .fault ([bankByte bank, 0] ++ bytes16 (BitVec.ofNat 16 i)))
  | _ => none

/-- SCRUB_JOB_END (R54). -/
def execScrubJobEnd (s : State) : Host.Outcome State Fault Refusal := takeStep endScrub s

end Sys2Proof.Machine
end

