-- ==== Sys2Proof/Machine/Return.lean ====
section
/-! DEFINITION. The return transmitter and the forward transmitter's CR: RETURN_PACKET (R160), MESSAGE_BEGUN and
MESSAGE_SENT (R165), EV_QUEUED (R157), CREDIT_ANNOUNCEMENT (R135). -/

namespace Sys2Proof.Machine

/-- The upstream credits available (R162). -/
def State.upCredits (s : State) : Nat := (s.ret.upGrant - s.ret.upSent).toNat

/-- The grant not yet used by the downstream neighbour (R160). -/
def State.downRoom (s : State) : Nat := (s.ret.downGrant - s.ret.downReceived).toNat

/-- A link error when a return packet is not sound (R160). -/
def State.linkErrorUnless (s : State) (sound : Bool) : State := if sound then s else s.linkError

/-- A packet taken on the downstream return lane (R160): a 3-byte packet is consumed; a message joins the pass queue
while grant remains, and is discarded as a link error when none does. -/
def takeReturn (bytes : List Byte) (s : State) : State :=
  if bytes.length = 3 then s.linkErrorUnless (returnFillSound bytes)
  else if s.downRoom = 0 then s.linkError
  else { s with ret := { s.ret with pass := s.ret.pass ++ [bytes], downReceived := s.ret.downReceived + 1 }
       }.linkErrorUnless (returnMessageSound bytes)

/-- RETURN_PACKET (R160). -/
def execReturnPacket (bytes : List Byte) (s : State) : Host.Outcome State Fault Refusal :=
  takeStep (fun s => some (takeReturn bytes s)) s

/-- The queue the arbiter serves next (R165): the one that holds messages, or, when both do, the one not served
last. -/
def State.nextQueue (s : State) : Option LaneQueue :=
  match s.ret.own, s.ret.pass with
  | [], [] => none
  | _ :: _, [] => some .own
  | [], _ :: _ => some .pass
  | _ :: _, _ :: _ => some (match s.ret.lastServed with | .own => .pass | .pass => .own)

/-- Beginning the front message of a queue (R165). -/
def State.beginMessage (s : State) (q : LaneQueue) : State :=
  { s with ret := { s.ret with
    upSent := s.ret.upSent + 1,
    lastServed := q,
    sending := some (match q with | .own => .own | .pass => .pass) } }

/-- A message is begun when the lane is not sending, a queue holds a message and credits are available (R165). -/
def beginNext (s : State) : Option State :=
  if s.ret.sending = none ∧ 0 < s.upCredits then s.nextQueue.map s.beginMessage else none

/-- MESSAGE_BEGUN (R165). -/
def execMessageBegun (s : State) : Host.Outcome State Fault Refusal := takeStep beginNext s

/-- A reply that has been sent frees its reply slot (R138, R140). -/
def freedSlots (slots : Nat) : OwnMessage → Nat
  | .reply _ => slots - 1
  | .event _ => slots

/-- The sending of the message ends (R165): it leaves its queue; a reply frees its slot, an EV its slot (by leaving the
queue, R155), and a relayed message its place, with a down-grant advance that makes an announcement due (R162). -/
def endMessage (s : State) : Option State :=
  match s.ret.sending with
  | none => none
  | some .own =>
      match s.ret.own with
      | [] => none
      | msg :: rest =>
          some { s.sendUp msg.packet with
            ret := { s.ret with own := rest, sending := none },
            cmd := { s.cmd with slots := freedSlots s.cmd.slots msg } }
  | some .pass =>
      match s.ret.pass with
      | [] => none
      | msg :: rest =>
          some { s.sendUp msg with
            ret := { s.ret with pass := rest, sending := none, downGrant := s.ret.downGrant + 1 },
            creditDue := true }
  | some (.uncounted bytes) => some { s.sendUp bytes with ret := { s.ret with sending := none } }

/-- MESSAGE_SENT (R165). -/
def execMessageSent (s : State) : Host.Outcome State Fault Refusal := takeStep endMessage s

/-- EV_QUEUED (R157): the test by itself. Every other step makes the same test in its claims (log 12). -/
def execEvQueued (s : State) : Host.Outcome State Fault Refusal :=
  takeStep (fun s => if s.eventDue then some s else none) s

/-- A due announcement is sent as a CR with the down-grant total, and is cleared (R135). -/
def announceCredit (s : State) : Option State :=
  if s.creditDue then some { s.forward (encodePacket (.cr s.ret.downGrant)) with creditDue := false } else none

/-- CREDIT_ANNOUNCEMENT (R135). -/
def execCreditAnnouncement (s : State) : Host.Outcome State Fault Refusal := takeStep announceCredit s

end Sys2Proof.Machine
end

