-- ==== Sys2Proof/Machine/Tables.lean ====
section
/-! DEFINITION. The commands on tables and banks: OPEN_TABLE, WRITE_TABLE, CLOSE_TABLE, DISCARD_TABLE, SCRUB_BANK
(Section 3), RELEASE_TABLE and READ_TABLE (Section 2). Each body makes its checks in the order its rule gives; a
failing check answers with the payload of zeros that R178 asks for (log 14), but for the lookup fault count of
READ_TABLE (R19; log 32). -/

namespace Sys2Proof.Machine

/-! ### OPEN_TABLE -/

/-- OPEN_TABLE with room in the job queue (R57). -/
def openWithRoom (h : Handle) (copy : Bool) (c : CommandPacket) (s : State) : CommandResult :=
  match s.banks.free with
  | [] => .reply .noBank (zeros 6) s
  | bank :: rest =>
      let r := s.banks.record h
      let work := match copy, r.active with
        | true, some side => JobWork.copy h side.bank side.keyCount
        | _, _ => JobWork.fill h
      let banks := { s.banks with free := rest }.modify h fun r =>
        { r with
          staged := some ⟨bank, 0, false⟩,
          stagedState := if copy then .copying else .filling,
          nextSeq := 0,
          writeAccepted := false }
      .deferred ({ s with banks := banks }.addJob ⟨work, c.tag, c.code⟩)

/-- OPEN_TABLE's checks (R56) and the wait for room (R47). -/
def openBody : CommandPacket → State → CommandResult :=
  withLength 2 <| withHandle fun h c s =>
    match openModeOf (byteAt c.payload 1) with
    | none => .reply .badArgument (zeros 6) s
    | some copy =>
        let r := s.banks.record h
        if r.stagedState ≠ .none then .reply .wrongState (zeros 6) s
        else if copy ∧ r.active = none then .reply .wrongState (zeros 6) s
        else if s.jobRoom then openWithRoom h copy c s
        else .wait s

/-- OPEN_TABLE (R56, R57). -/
def execOpenTable (s : State) : Host.Outcome State Fault Refusal := takeStep (takeHead (· == codeOpenTable) openBody) s

/-! ### WRITE_TABLE -/

/-- The words carried by a WRITE_TABLE, from payload offset 8 (Table 11.7-1); the top two bits are ignored (R58). -/
def carriedWords (payload : List Byte) : List Triple :=
  match pixelWords (payload.drop 8) with
  | some ws => ws.map tripleOfWord
  | none => []

/-- An accepted WRITE_TABLE (R58): the words are stored in the staged bank and the sequence advances. -/
def acceptWrite (h : Handle) (bank : Bank) (c : CommandPacket) (s : State) : CommandResult :=
  let next := (s.banks.record h).nextSeq + 1
  .reply .ok ([handleByte h, 0] ++ bytes16 next)
    { s with
      mem := writeRun s.mem bank (halfAt c.payload 4).toNat (carriedWords c.payload),
      banks := s.banks.modify h fun r => { r with nextSeq := next, writeAccepted := true } }

/-- WRITE_TABLE's checks and its sequence number (R58, R59). -/
def writeTableChecked (h : Handle) (c : CommandPacket) (s : State) : CommandResult :=
  let r := s.banks.record h
  let sequence := halfAt c.payload 2
  let start := (halfAt c.payload 4).toNat
  let count := (byteAt c.payload 6).toNat
  match r.stagedState, r.staged with
  | .opened, some side =>
      if count < 1 ∨ 32 < count ∨ 1024 < start + count then .reply .badArgument (zeros 4) s
      else if sequence = r.nextSeq then acceptWrite h side.bank c s
      else if sequence = r.nextSeq - 1 ∧ r.writeAccepted = true then
        .reply .duplicate ([0, 0] ++ bytes16 r.nextSeq) s
      else .reply .sequence ([0, 0] ++ bytes16 r.nextSeq) s
  | _, _ => .reply .wrongState (zeros 4) s

/-- WRITE_TABLE's common checks: its payload is an 8-byte header and 4 bytes for each word its word count declares
(R141). -/
def writeTableBody (c : CommandPacket) (s : State) : CommandResult :=
  if 8 ≤ c.payload.length ∧ c.payload.length = 8 + 4 * (byteAt c.payload 6).toNat then
    withHandle writeTableChecked c s
  else .reply .badLength [] s

/-- WRITE_TABLE (R58, R59). -/
def execWriteTable (s : State) : Host.Outcome State Fault Refusal :=
  takeStep (takeHead (· == codeWriteTable) writeTableBody) s

/-! ### CLOSE_TABLE -/

/-- CLOSE_TABLE (R60, R47): the staged state becomes CHECKING and a CHECK job is queued. -/
def closeBody : CommandPacket → State → CommandResult :=
  withLength 8 <| withHandle fun h c s =>
    let keyCount := (halfAt c.payload 2).toNat
    if (s.banks.record h).stagedState ≠ .opened then .reply .wrongState (zeros 8) s
    else if 256 < keyCount then .reply .badArgument (zeros 8) s
    else if s.jobRoom then
      .deferred ({ s with
        banks := s.banks.modify h fun r => { r with stagedState := .checking } }.addJob
          ⟨.check h (wordAt c.payload 4) keyCount, c.tag, c.code⟩)
    else .wait s

/-- CLOSE_TABLE (R60). -/
def execCloseTable (s : State) : Host.Outcome State Fault Refusal :=
  takeStep (takeHead (· == codeCloseTable) closeBody) s

/-! ### DISCARD_TABLE -/

/-- The staged side of a handle is given up (R61). -/
def State.giveUpStaged (s : State) (h : Handle) : State := { s with banks := s.banks.releaseStaged h }

/-- The payload of zeros of an ABORTED reply, by the originating command (R61, R178). -/
def abortedPayload : JobWork → List Byte
  | .fill _ => zeros 6
  | .copy _ _ _ => zeros 6
  | .check _ _ _ => zeros 8
  | .scrub _ => zeros 4

/-- The job of a handle is dropped and its originating command answered ABORTED (R61). -/
def State.abortJobOf (s : State) (h : Handle) : State :=
  match s.jobs.find? fun job => job.work.worksOn h with
  | none => s
  | some job => (s.dropJobOf h).reply job.tag job.code .aborted (abortedPayload job.work)

/-- DISCARD_TABLE (R61). Its OK reply carries the handle (log 31). -/
def discardBody : CommandPacket → State → CommandResult :=
  withLength 1 <| withHandle fun h _ s =>
    match (s.banks.record h).stagedState with
    | .none => .reply .wrongState (zeros 1) s
    | .committing => .reply .pending (zeros 1) s
    | .filling => .reply .ok [handleByte h] ((s.abortJobOf h).giveUpStaged h)
    | .copying => .reply .ok [handleByte h] ((s.abortJobOf h).giveUpStaged h)
    | .checking => .reply .ok [handleByte h] ((s.abortJobOf h).giveUpStaged h)
    | .opened => .reply .ok [handleByte h] (s.giveUpStaged h)
    | .loaded => .reply .ok [handleByte h] (s.giveUpStaged h)

/-- DISCARD_TABLE (R61). -/
def execDiscardTable (s : State) : Host.Outcome State Fault Refusal :=
  takeStep (takeHead (· == codeDiscardTable) discardBody) s

/-! ### SCRUB_BANK -/

/-- SCRUB_BANK (R63, R47). -/
def scrubBody : CommandPacket → State → CommandResult :=
  withLength 1 fun c s =>
    match bankOf (byteAt c.payload 0) with
    | none => .reply .badArgument (zeros 4) s
    | some bank =>
        if bank ∉ s.banks.quarantine then .reply .wrongState (zeros 4) s
        else if s.jobs.any fun job => job.work.scrubs bank then .reply .busy (zeros 4) s
        else if s.jobRoom then .deferred (s.addJob ⟨.scrub bank, c.tag, c.code⟩)
        else .wait s

/-- SCRUB_BANK (R63). -/
def execScrubBank (s : State) : Host.Outcome State Fault Refusal :=
  takeStep (takeHead (· == codeScrubBank) scrubBody) s

/-! ### RELEASE_TABLE -/

/-- A configuration of the store names the handle (R39, check 4). -/
def ConfigStore.names (c : ConfigStore) (h : Handle) : Bool :=
  c.active.names h || c.staged.names h || c.saved.any fun saved => saved.names h

/-- RELEASE_TABLE (R39). Its OK reply carries the handle and the bank (log 31). -/
def releaseBody : CommandPacket → State → CommandResult :=
  withLength 1 <| withHandle fun h _ s =>
    let r := s.banks.record h
    match r.active with
    | none => .reply .wrongState (zeros 2) s
    | some side =>
        if r.stagedState = .committing then .reply .pending (zeros 2) s
        else if s.cfg.names h || s.jobs.any (fun job => job.work.copies h) then .reply .inUse (zeros 2) s
        else .reply .ok [handleByte h, bankByte side.bank] { s with banks := s.banks.releaseActive h }

/-- RELEASE_TABLE (R39). -/
def execReleaseTable (s : State) : Host.Outcome State Fault Refusal :=
  takeStep (takeHead (· == codeReleaseTable) releaseBody) s

/-! ### READ_TABLE -/

/-- The fault mark of a named side set when any word was read with a fault (R41). -/
def HandleRecord.markSide (r : HandleRecord) (name : SideName) : HandleRecord :=
  match name with
  | .active => { r with active := r.active.map Side.withMark }
  | .staged => { r with staged := r.staged.map Side.withMark }
  | .retained => { r with retained := r.retained.map Side.withMark }

/-- A word of a READ_TABLE reply: bit 31 is its fault indication, bit 30 zero (R175, R178). -/
def readTableWord (r : ReadResult) : Word :=
  if r.faulty then wordOfTriple r.values ||| 0x80000000#32 else wordOfTriple r.values

/-- An accepted READ_TABLE (R41). -/
def readAccepted (h : Handle) (name : SideName) (side : Side) (start count : Nat) (s : State) : CommandResult :=
  let words := readRun Config.readDisturbance s.mem side.bank start s.reads count
  let faulty := words.any ReadResult.faulty
  let s' := { s with
    reads := s.reads + count,
    banks := if faulty then s.banks.modify h fun r => r.markSide name else s.banks }.raiseIf faulty .bankFault
  .reply .ok
    ([handleByte h, name.byte, bankByte side.bank, flagByte (side.mark || faulty)]
      ++ bytes16 (BitVec.ofNat 16 side.keyCount) ++ [(s.banks.record h).faultCount, 0]
      ++ bytes16 (BitVec.ofNat 16 start) ++ [natByte count, 0] ++ words.flatMap fun r => bytes32 (readTableWord r))
    s'

/-- The payload of a refused READ_TABLE whose handle is in range: the handle's lookup fault count, which every READ_TABLE
reply for the handle reports (R19; log 32), and zeros (R178). -/
def HandleRecord.refusedRead (r : HandleRecord) : List Byte := zeros 6 ++ [r.faultCount] ++ zeros 5

/-- READ_TABLE (R19, R40). -/
def readTableBody : CommandPacket → State → CommandResult :=
  withLength 5 <| withHandle fun h c s =>
    let start := (halfAt c.payload 2).toNat
    let count := (byteAt c.payload 4).toNat
    let r := s.banks.record h
    match sideOf (byteAt c.payload 1) with
    | none => .reply .badArgument r.refusedRead s
    | some name =>
        match r.side name with
        | none => .reply .wrongState r.refusedRead s
        | some side =>
            if name = .staged ∧ (r.stagedState = .filling ∨ r.stagedState = .copying) then
              .reply .wrongState r.refusedRead s
            else if count < 1 ∨ 16 < count ∨ 1024 < start + count then .reply .badArgument r.refusedRead s
            else readAccepted h name side start count s

/-- READ_TABLE (R40, R41). -/
def execReadTable (s : State) : Host.Outcome State Fault Refusal :=
  takeStep (takeHead (· == codeReadTable) readTableBody) s

/-! ### A command waiting for job room -/

/-- The execution of a command that may wait for job room, by its code. -/
def waitingBody (c : CommandPacket) (s : State) : CommandResult :=
  if c.code = codeOpenTable then openBody c s
  else if c.code = codeCloseTable then closeBody c s
  else if c.code = codeScrubBank then scrubBody c s
  else .wait s

/-- The head command that waits has its checks made again when the job queue has room (R47, R143). It holds its slot. -/
def resumeHead (s : State) : Option State :=
  match s.cmd.queue with
  | [] => none
  | c :: _ => if s.cmd.waiting = true ∧ s.jobRoom = true then some (finishCommand c (waitingBody c s)) else none

/-- WAITING_COMMAND_RESUMED (R143). -/
def execWaitingCommandResumed (s : State) : Host.Outcome State Fault Refusal := takeStep resumeHead s

end Sys2Proof.Machine
end

