-- ==== Sys2Proof/Machine/Management.lean ====
section
/-! DEFINITION. The other commands of the command unit: SET_MODE (R10), SET_LINK_OPTIONS (R133), CAPTURE_SIGNATURE
(R115), READ_WINDOW (R114), IDENTIFY (R147), READ_STATUS (R148), ACK_EVENTS (R158), SET_EVENT_MASK (R159),
CLAIM_ADDRESS (R171), and a command whose code is unknown (R141). -/

namespace Sys2Proof.Machine

/-- SET_MODE (R10): a claim on the pending mode (R8). -/
def setModeBody : CommandPacket → State → CommandResult :=
  withLength 1 fun c s =>
    match modeOf (byteAt c.payload 0) with
    | none => .reply .badArgument [] s
    | some m => .reply .ok [] { s with pix := { s.pix with pendingMode := some m } }

/-- SET_MODE (R10). -/
def execSetMode (s : State) : Host.Outcome State Fault Refusal := takeStep (takeHead (· == codeSetMode) setModeBody) s

/-- SET_LINK_OPTIONS (R133): a running timer keeps the setting it was started with. -/
def setLinkOptionsBody : CommandPacket → State → CommandResult :=
  withLength 1 fun c s =>
    let ms := byteAt c.payload 0
    if ms = 0 then .reply .badArgument (zeros 1) s
    else .reply .ok [ms] { s with rx := { s.rx with setting := ms } }

/-- SET_LINK_OPTIONS (R133). -/
def execSetLinkOptions (s : State) : Host.Outcome State Fault Refusal :=
  takeStep (takeHead (· == codeSetLinkOptions) setLinkOptionsBody) s

/-- CAPTURE_SIGNATURE (R115). -/
def captureBody : CommandPacket → State → CommandResult :=
  withLength 9 fun c s =>
    if s.sig.capture ≠ .idle then .reply .busy (zeros 22) s
    else
      match pointOf (byteAt c.payload 0), rectAt c.payload 1 with
      | some point, some rect =>
          .deferred { s with sig := { s.sig with capture := .armed ⟨point, rect, c.tag, c.code, 0⟩ } }
      | _, _ => .reply .badArgument (zeros 22) s

/-- CAPTURE_SIGNATURE (R115). -/
def execCaptureSignature (s : State) : Host.Outcome State Fault Refusal :=
  takeStep (takeHead (· == codeCaptureSignature) captureBody) s

/-- The payload of a READ_WINDOW reply (R114, Table 11.7-2). While the last signature is absent its field is zero
(log 34). -/
def State.windowPayload (s : State) (k : Fin 4) : List Byte :=
  let w := s.sig.checkers[k.val]
  [natByte k.val, flagByte w.lastSignature.isSome] ++ s.cfg.active.windows[k.val].bytes
    ++ [w.count.setWidth 8, 0] ++ bytes32 (w.lastSignature.getD 0)
    ++ bytes16 w.matched ++ bytes16 w.mismatched ++ bytes16 w.skipped

/-- READ_WINDOW (R114). -/
def readWindowBody : CommandPacket → State → CommandResult :=
  withLength 1 fun c s =>
    match windowOf (byteAt c.payload 0) with
    | none => .reply .badArgument (zeros 30) s
    | some k => .reply .ok (s.windowPayload k) s

/-- READ_WINDOW (R114). -/
def execReadWindow (s : State) : Host.Outcome State Fault Refusal :=
  takeStep (takeHead (· == codeReadWindow) readWindowBody) s

/-- The payload of an IDENTIFY reply (R147, Table 11.7-2). -/
def State.identifyPayload (s : State) : List Byte :=
  bytes16 Config.partCode ++ [Config.revision, s.address.setWidth 8] ++ Config.capacities

/-- IDENTIFY (R147). -/
def identifyBody : CommandPacket → State → CommandResult :=
  withLength 0 fun _ s => .reply .ok s.identifyPayload s

/-- IDENTIFY (R147). -/
def execIdentify (s : State) : Host.Outcome State Fault Refusal := takeStep (takeHead (· == codeIdentify) identifyBody) s

/-- The payload of a READ_STATUS reply (R148, Table 11.7-3). -/
def State.statusPayload (s : State) : List Byte :=
  [s.pix.mode.byte, match s.pix.pendingMode with | none => 0xFF | some m => m.byte, s.rx.state.byte,
    flagByte s.rx.boundarySeen]
    ++ bytes16 (if s.rx.boundarySeen then s.rx.lastFrame else 0)
    ++ bytes16 (if s.rx.boundarySeen then s.rx.lastBoundary else 0)
    ++ [s.commit.state.byte, s.commit.guardCounter.setWidth 8, natByte s.banks.free.length,
        natByte s.banks.quarantine.length, natByte s.banks.withdrawn.length, s.sig.capture.byte]
    ++ (allHandles.map fun h => (s.banks.record h).stagedState.byte)
    ++ bytes16 s.cmd.dropped ++ bytes16 s.rx.linkErrors ++ bytes16 s.rx.brokenFrames
    ++ [natByte s.upCredits, 0]

/-- READ_STATUS (R148). -/
def readStatusBody : CommandPacket → State → CommandResult :=
  withLength 0 fun _ s => .reply .ok s.statusPayload s

/-- READ_STATUS (R148). -/
def execReadStatus (s : State) : Host.Outcome State Fault Refusal :=
  takeStep (takeHead (· == codeReadStatus) readStatusBody) s

/-- The payload of an ACK_EVENTS or SET_EVENT_MASK reply: the latched kinds and the mask (Table 11.7-2). -/
def State.registerPayload (s : State) : List Byte :=
  bytes16 (s.events.latched.setWidth 16) ++ bytes16 (s.events.masked.setWidth 16)

/-- ACK_EVENTS (R158): latched and reported become no for the kinds named. -/
def ackEventsBody : CommandPacket → State → CommandResult :=
  withLength 2 fun c s =>
    match kindSetOf (halfAt c.payload 0) with
    | none => .reply .badArgument (zeros 4) s
    | some kinds =>
        let s' := { s with events := { s.events with
          latched := s.events.latched &&& ~~~kinds, reported := s.events.reported &&& ~~~kinds } }
        .reply .ok s'.registerPayload s'

/-- ACK_EVENTS (R158). -/
def execAckEvents (s : State) : Host.Outcome State Fault Refusal :=
  takeStep (takeHead (· == codeAckEvents) ackEventsBody) s

/-- SET_EVENT_MASK (R159): the mask replaces the masked indications. -/
def setEventMaskBody : CommandPacket → State → CommandResult :=
  withLength 2 fun c s =>
    match kindSetOf (halfAt c.payload 0) with
    | none => .reply .badArgument (zeros 4) s
    | some mask =>
        let s' := { s with events := { s.events with masked := mask } }
        .reply .ok s'.registerPayload s'

/-- SET_EVENT_MASK (R159). -/
def execSetEventMask (s : State) : Host.Outcome State Fault Refusal :=
  takeStep (takeHead (· == codeSetEventMask) setEventMaskBody) s

/-- A refused CLAIM_ADDRESS gives the present address in both fields (R171, Table 11.7-2). -/
def State.refuseClaim (s : State) (status : Status) : CommandResult :=
  .reply status [s.address.setWidth 8, s.address.setWidth 8] s

/-- CLAIM_ADDRESS (R171). The reply is made ready after the change, so its source address is the new one (R172). -/
def claimAddressBody : CommandPacket → State → CommandResult :=
  withLength 1 fun c s =>
    let new := byteAt c.payload 0
    if destinationOf c = 63 then s.refuseClaim .badArgument
    else if new.toNat < 1 ∨ 62 < new.toNat then s.refuseClaim .badArgument
    else if destinationOf c ≠ s.address then s.refuseClaim .wrongState
    else .reply .ok [s.address.setWidth 8, new] { s with address := new.extractLsb' 0 6 }

/-- CLAIM_ADDRESS (R171). -/
def execClaimAddress (s : State) : Host.Outcome State Fault Refusal :=
  takeStep (takeHead (· == codeClaimAddress) claimAddressBody) s

/-- A command whose code is none of the 22 (R141): the reply echoes the code and carries no payload. -/
def unknownBody (_ : CommandPacket) (s : State) : CommandResult := .reply .unknownCommand [] s

/-- UNKNOWN_COMMAND (R141). -/
def execUnknownCommand (s : State) : Host.Outcome State Fault Refusal :=
  takeStep (takeHead (fun code => !knownCodes.contains code) unknownBody) s

end Sys2Proof.Machine
end

