-- ==== Sys2Proof/Machine/PixelLookup.lean ====
section
/-! DEFINITION. The pixel path's work on a frame line in ACTIVE: chain selection (R12), the three stage kinds (R14 to
R17), and parity faults met by lookups (R18 to R20). -/

namespace Sys2Proof.Machine

/-- What a stage gives for one pixel: its output, whether it met a parity fault (R18), and the number of the next read
of the table memory. -/
structure StageResult where
  out    : Triple
  faulty : Bool
  next   : Nat
deriving DecidableEq, Repr

/-- The rectangle contains the position (R12). -/
def Rect.contains (r : Rect) (x y : Nat) : Bool :=
  r.x0.toNat ≤ x && x ≤ r.x1.toNat && r.y0.toNat ≤ y && y ≤ r.y1.toNat

/-- The chain of the pixel at position `x` of line `y`: that of the lowest-numbered enabled region containing it, else
chain 0 (R12). -/
def selectChain (c : Configuration) (x y : Nat) : Fin 4 :=
  match c.regions.toList.find? (fun r => r.enabled && r.rect.contains x y) with
  | some r => r.chain
  | none => 0

/-- One component of a CURVE stage (R14): in the mask, the word at the component's value is read and `pick` gives the
output; out of the mask it passes. -/
def curveComponent (disturb : Nat → Option Triple) (m : Memory) (bank : Bank) (masked : Bool) (v : Comp)
    (pick : Triple → Comp) (n : Nat) : Comp × Bool × Nat :=
  if masked then
    let r := readWord disturb m n bank v
    (pick r.values, r.faulty, n + 1)
  else (v, false, n)

/-- A CURVE stage (R14, R18): each masked component makes its own read, with the stage's input values (log 27). -/
def runCurve (disturb : Nat → Option Triple) (m : Memory) (bank : Bank) (mask : Byte) (px : Triple) (n : Nat) :
    StageResult :=
  let r0 := curveComponent disturb m bank (mask.getLsbD 0) px.c0 Triple.c0 n
  let r1 := curveComponent disturb m bank (mask.getLsbD 1) px.c1 Triple.c1 r0.2.2
  let r2 := curveComponent disturb m bank (mask.getLsbD 2) px.c2 Triple.c2 r1.2.2
  if r0.2.1 || r1.2.1 || r2.2.1 then ⟨px, true, r2.2.2⟩ else ⟨⟨r0.1, r1.1, r2.1⟩, false, r2.2.2⟩

/-- The index component of a PALETTE stage (Table 11.6-1). -/
def paletteIndex (component : Byte) (px : Triple) : Comp :=
  if component = 0 then px.c0 else if component = 1 then px.c1 else px.c2

/-- A PALETTE stage (R15, R18): one read, and the word's triple is the output. -/
def runPalette (disturb : Nat → Option Triple) (m : Memory) (bank : Bank) (component : Byte) (px : Triple) (n : Nat) :
    StageResult :=
  let r := readWord disturb m n bank (paletteIndex component px)
  ⟨if r.faulty then px else r.values, r.faulty, n + 1⟩

/-- A control word of a key record (Table 11.5-1); its bits 29-20 are a0. -/
structure KeyControl where
  valid : Bool
  mask0 : Bool
  mask1 : Bool
  mask2 : Bool
  pass  : Bool
deriving DecidableEq, Repr

/-- The fields of a control word, bits 29-25 (R177). -/
def KeyControl.ofTriple (t : Triple) : KeyControl :=
  ⟨t.c0.getLsbD 9, t.c0.getLsbD 8, t.c0.getLsbD 7, t.c0.getLsbD 6, t.c0.getLsbD 5⟩

/-- The mask is empty: the record matches every pixel and its bounds are not read (R17). -/
def KeyControl.matchesAll (k : KeyControl) : Bool := !k.mask0 && !k.mask1 && !k.mask2

/-- Every masked component of the pixel lies within the bounds (R17). -/
def KeyControl.within (k : KeyControl) (low high px : Triple) : Bool :=
  (!k.mask0 || (low.c0 ≤ px.c0 && px.c0 ≤ high.c0)) &&
  (!k.mask1 || (low.c1 ≤ px.c1 && px.c1 ≤ high.c1)) &&
  (!k.mask2 || (low.c2 ≤ px.c2 && px.c2 ≤ high.c2))

/-- Word `j` of key record `k` (R17). -/
def keyWord (k j : Nat) : Comp := BitVec.ofNat 10 (4 * k + j)

/-- A matching record applied (R16): PASS leaves the pixel, REPLACE reads the replacement word. -/
def applyKey (disturb : Nat → Option Triple) (m : Memory) (bank : Bank) (k : Nat) (pass : Bool) (px : Triple)
    (n : Nat) : StageResult :=
  if pass then ⟨px, false, n⟩
  else
    let r := readWord disturb m n bank (keyWord k 2)
    ⟨if r.faulty then px else r.values, r.faulty, n + 1⟩

/-- The search of a KEY stage from record `k` on, `remaining` records long (R16, R17). It stops at the first match or
at the first faulty read (R18). -/
def searchKeys (disturb : Nat → Option Triple) (m : Memory) (bank : Bank) (px : Triple) (k n : Nat) :
    Nat → StageResult
  | 0 => ⟨px, false, n⟩
  | remaining + 1 =>
      let control := readWord disturb m n bank (keyWord k 3)
      let key := KeyControl.ofTriple control.values
      let low := readWord disturb m (n + 1) bank (keyWord k 0)
      let high := readWord disturb m (n + 2) bank (keyWord k 1)
      if control.faulty then ⟨px, true, n + 1⟩
      else if !key.valid then searchKeys disturb m bank px (k + 1) (n + 1) remaining
      else if key.matchesAll then applyKey disturb m bank k key.pass px (n + 1)
      else if low.faulty then ⟨px, true, n + 2⟩
      else if high.faulty then ⟨px, true, n + 3⟩
      else if key.within low.values high.values px then applyKey disturb m bank k key.pass px (n + 3)
      else searchKeys disturb m bank px (k + 1) (n + 3) remaining

/-- One stage on one pixel, against the active bank of its handle (R13). A handle without an active bank cannot be
named by the active configuration (R87); the stage then passes the pixel (log 26). -/
def runStage (disturb : Nat → Option Triple) (m : Memory) (active : Option Side) (st : Stage) (px : Triple) (n : Nat) :
    StageResult :=
  match active with
  | none => ⟨px, false, n⟩
  | some side =>
      match st.kind with
      | .curve => runCurve disturb m side.bank st.option px n
      | .palette => runPalette disturb m side.bank st.option px n
      | .key => searchKeys disturb m side.bank px 0 n side.keyCount

/-- What lookups change: the read number, the handle records (fault counts and marks), and, when one was faulty, the
handle records as the first faulty stage left them, which is when BANK_FAULT latches (R20, R156, R157). -/
structure Lookup where
  reads      : Nat
  handles    : Vector HandleRecord 10
  firstFault : Option (Vector HandleRecord 10)
deriving DecidableEq, Repr

/-- A lookup was faulty. -/
def Lookup.faulted (l : Lookup) : Bool := l.firstFault.isSome

/-- A faulty stage for one pixel: the handle's lookup fault count rises and its active side is marked (R19, R20). -/
def HandleRecord.lookupFault (r : HandleRecord) : HandleRecord :=
  { r with faultCount := saturate8 r.faultCount, active := r.active.map Side.withMark }

/-- The lookups after a stage's result. -/
def Lookup.after (l : Lookup) (h : Handle) (r : StageResult) : Lookup :=
  if r.faulty then
    let handles := l.handles.set h.val (l.handles[h.val]).lookupFault
    ⟨r.next, handles, some (l.firstFault.getD handles)⟩
  else { l with reads := r.next }

/-- The stages of a chain in list order (R13). -/
def runChain (disturb : Nat → Option Triple) (m : Memory) (px : Triple) (l : Lookup) : List Stage → Triple × Lookup
  | [] => (px, l)
  | st :: rest =>
      let r := runStage disturb m (l.handles[st.handle.val]).active st px l.reads
      runChain disturb m r.out (l.after st.handle r) rest

/-- The pixels of a line from position `x` on (R4). -/
def transformFrom (disturb : Nat → Option Triple) (m : Memory) (c : Configuration) (y x : Nat) (l : Lookup) :
    List Triple → List Triple × Lookup
  | [] => ([], l)
  | px :: rest =>
      let r := runChain disturb m px l c.chains[(selectChain c x y).val]
      let rest' := transformFrom disturb m c y (x + 1) r.2 rest
      (r.1 :: rest'.1, rest'.2)

end Sys2Proof.Machine
end

