-- ==== Sys2Proof/Machine/Forward.lean ====
section
/-! DEFINITION. The commands of the forward lane: good packets FS, LN, FE, CM, CR and FILL, bad and malformed packets,
and the expiry of the signal-loss timer (Section 7). LINK_RESET is in Reset.lean. -/

namespace Sys2Proof.Machine

/-! ### FS -/

/-- A frame boundary (R125): the lane receiver records it and announces it to the pixel path (R9), the commit unit
(R80) and the signature unit (R106, R116), which works from the configuration then in force. Each acts in its own claim,
in that order (log 38), so the EV condition is tested after each (R157). -/
def State.frameBoundary (s : State) (frame width height : Half) : State :=
  let s' := { s with rx := { s.rx with
    state := .frame, boundarySeen := true, lastFrame := frame, lastBoundary := frame, width := width,
    height := height, linesTaken := 0, broken := false } }
  ((s'.reportEvents.applyPendingMode.reportEvents).commitBoundary frame).reportEvents.signatureFrameStart

/-- An overrun start (R126): the frame in progress ends broken without an FE, and a new frame begins; it is no
boundary. -/
def State.overrunStart (s : State) (frame width height : Half) : State :=
  let s' := s.frameBroken.captureOverrun
  { s' with rx := { s'.rx with
    lastFrame := frame, width := width, height := height, linesTaken := 0, broken := false } }.signatureFrameStart

/-- A good FS (R124 to R126). -/
def takeFs (frame width height : Half) (s : State) : State :=
  let s' := s.signalPresent
  (if s'.rx.state = .frame then s'.overrunStart frame width height else s'.frameBoundary frame width height).forward
    (encodePacket (.fs frame width height))

/-! ### LN -/

/-- The lane receiver takes a frame line (R127). -/
def LaneReceiver.takeLine (r : LaneReceiver) (line : Half) (count : Nat) : LaneReceiver :=
  { r with
    broken := r.broken || decide (line.toNat ≠ r.linesTaken) || decide (count ≠ r.width.toNat),
    linesTaken := min (r.linesTaken + 1) 4096 }

/-- The pixels of a frame line transformed in ACTIVE, with what the lookups change (R4, R19, R20). -/
def State.transformed (s : State) (line : Half) (input : List Triple) : List Triple × Lookup :=
  transformFrom Config.readDisturbance s.mem s.cfg.active line.toNat 0 ⟨s.reads, s.banks.handles, none⟩ input

/-- What the lookups of a line leave: the read number, the handle records, and BANK_FAULT, raised when the first faulty
stage marks its handle, in whose claim the EV condition is tested (R20, R157). -/
def State.afterLookups (s : State) (l : Lookup) : State :=
  let s' := { s with reads := l.reads }
  let s'' := match l.firstFault with
    | none => s'
    | some handles => ({ s' with banks := { s.banks with handles := handles } }.raise .bankFault).reportEvents
  { s'' with banks := { s.banks with handles := l.handles } }

/-- A frame line (R3 to R7, R21, R127): transformed and re-encoded in ACTIVE, forwarded bit for bit otherwise, and
handed to both taps. -/
def State.frameLine (s : State) (line : Half) (pixels : List Word) : State :=
  let input := pixels.map tripleOfWord
  let s' := { s with rx := s.rx.takeLine line pixels.length }
  if s.pix.mode = .active then
    let r := s.transformed line input
    { s'.afterLookups r.2 with sig := s.sig.tapLine s.cfg.active line.toNat input r.1 }.forward
      (encodePacket (.ln line (r.1.map wordOfTriple)))
  else
    { s' with sig := s.sig.tapLine s.cfg.active line.toNat input input }.forward (encodePacket (.ln line pixels))

/-- A good LN (R2, R124, R127, R129, R130). -/
def takeLn (line : Half) (pixels : List Word) (s : State) : State :=
  let s' := s.signalPresent
  match s'.rx.state with
  | .frame => s'.frameLine line pixels
  | .blank =>
      ({ s' with rx := { s'.rx with state := .hunt } }.linkError).forward (encodePacket (.ln line pixels))
  | .hunt => s'.forward (encodePacket (.ln line pixels))
  | .noSignal => s'.forward (encodePacket (.ln line pixels))

/-! ### FE -/

/-- The frame in progress is clean (R128). -/
def LaneReceiver.cleanAt (r : LaneReceiver) (linesSent : Half) : Bool :=
  !r.broken && decide (r.linesTaken = r.height.toNat) && decide (linesSent = r.height)

/-- The frame end (R128): a broken frame is counted, a clean ACTIVE frame is evaluated (R107), and a running capture's
attempt is completed (R117). The evaluation is a claim of its own, so the EV condition is tested after it (R107, R157;
log 38). The declared size, lines taken and frame-broken flag of the ended frame keep their values (log 39). -/
def State.frameEnd (s : State) (linesSent : Half) : State :=
  let clean := s.rx.cleanAt linesSent
  let s1 := { s with rx := { s.rx with state := .blank } }
  let s2 := if clean then s1 else s1.frameBroken
  let s3 := if clean ∧ s.pix.mode = .active then s2.evaluate.reportEvents else s2
  s3.captureFrameEnd clean

/-- A good FE (R124, R128 to R130). Its forwarding makes a credit announcement due (R135; log 13). -/
def takeFe (linesSent : Half) (s : State) : State :=
  let s' := s.signalPresent
  let s'' := match s'.rx.state with
    | .frame => s'.frameEnd linesSent
    | .blank => { s' with rx := { s'.rx with state := .hunt } }.linkError
    | .hunt => s'
    | .noSignal => s'
  { s''.forward (encodePacket (.fe linesSent)) with creditDue := true }

/-! ### CM and CR -/

/-- The packet is offered to the command unit (Table 10.2-1): a broadcast, or a destination equal to the part
address (which covers the unassigned claim, 0 and 0). -/
def State.offers (s : State) (c : CommandPacket) : Bool :=
  decide (destinationOf c = 63) || decide (destinationOf c = s.address)

/-- The packet is forwarded (Table 10.2-1): a broadcast, or a destination other than the part address. -/
def State.passesOn (s : State) (c : CommandPacket) : Bool :=
  decide (destinationOf c = 63) || decide (destinationOf c ≠ s.address)

/-- A command offered to the command unit (R139): it joins the queue, or is dropped when the queue is full. -/
def State.offerCommand (s : State) (c : CommandPacket) : State :=
  if s.cmd.queue.length < Config.commandRoom then { s with cmd := { s.cmd with queue := s.cmd.queue ++ [c] } }
  else { s with cmd := { s.cmd with dropped := saturate16 s.cmd.dropped } }.raise .commandsDropped

/-- A good CM (R124, R134, R139, R169). -/
def takeCm (c : CommandPacket) (s : State) : State :=
  let s1 := s.signalPresent
  let s2 := if s.offers c then s1.offerCommand c else s1
  if s.passesOn c then s2.forward (encodePacket (.cm c)) else s2

/-- A good CR (R124, R134, R163). -/
def takeCr (total : Byte) (s : State) : State :=
  let s' := s.signalPresent
  if (total - s.ret.upSent).toNat ≤ 16 then { s' with ret := { s'.ret with upGrant := total } } else s'.linkError

/-- A good FILL (R124, R134). -/
def takeFill (s : State) : State := s.signalPresent.forward (encodePacket .fill)

/-! ### Bad and malformed packets -/

/-- A bad or malformed packet whose kind reads LN breaks the frame in progress (R122, R123). -/
def State.breakFrameIf (s : State) (readsLn : Bool) : State :=
  if readsLn && decide (s.rx.state = .frame) then { s with rx := { s.rx with broken := true } } else s

/-- A bad packet (R122). One whose kind reads FE makes no announcement due (log 35). -/
def takeBad (bytes : List Byte) (s : State) : State :=
  ((s.breakFrameIf (kindReadsLn bytes)).linkError).forward bytes

/-- A malformed packet (R123). A malformed FE makes no announcement due (log 35). -/
def takeMalformed (bytes : List Byte) (s : State) : State :=
  (((s.signalPresent).breakFrameIf (kindReadsLn bytes)).linkError).forward bytes

/-! ### Signal loss -/

/-- The signal-loss timer expires (R132). The declared size, lines taken and frame-broken flag, which have lost their
meaning, keep their values (log 39). -/
def State.loseSignal (s : State) : State :=
  let s1 := if s.rx.state = .frame then s.frameBroken.captureSignalLost else s
  { s1 with rx := { s1.rx with state := .noSignal, timer := none } }.raise .signalLost

end Sys2Proof.Machine
end

