-- ==== Sys2Proof/Machine/Reset.lean ====
section
/-! DEFINITION. The resets: the reset pin (R179, with R43, R65, R88, R119, R153, R167) and the link reset (R137, with
R44, R64, R89, R102, R119, R152, R166). -/

namespace Sys2Proof.Machine

/-- A packet cut off after `k` bytes: its last byte at least never leaves (R179). -/
def cutShort (bytes : List Byte) (k : Nat) : LanePacket := ⟨bytes.take (min k (bytes.length - 1)), false⟩

/-- What the upstream return lane is sending, a message or, when idle, a return FILL (R165), is cut off by the reset pin
(R179; log 37). While the pin is already asserted the lane sends nothing. -/
def State.cutOff (s : State) : List LanePacket :=
  match s.returnLane with
  | none => []
  | some bytes => [cutShort bytes (Config.returnCut s.resets)]

/-- What the downstream forward lane has carried when the pin is asserted (R179; log 37): of the packets handed to it
since the last power-on reset, some of the last may not have left; the first of these is cut off, the others never
begin. -/
def State.forwardCutOff (s : State) : List LanePacket :=
  let free := Config.forwardCut s.resets
  let left := s.downOut.length - min free.1 s.downHanded
  s.downOut.take left ++ (s.downOut.drop left).head?.toList.map fun p => cutShort p.bytes free.2

/-- Power-on reset, whatever the part held: every block takes its power-on values. The words of the table memory are
not written (R43); a running job stops where it is (R65). -/
def State.powerOn (s : State) : State :=
  let stopped := s.stopRunning
  { State.reset with
    mem := stopped.mem,
    resetHeld := true,
    downOut := s.forwardCutOff,
    upOut := s.upOut ++ s.cutOff,
    reads := s.reads,
    abandons := stopped.abandons,
    resets := s.resets + 1,
    pending := s.pending }

/-- The commit unit and the configuration store at a link reset (R89): the staged configuration becomes a copy of the
active one and the freeze flag no; a pending commit is dropped; a guard is kept (R102). -/
def State.linkResetCommit (s : State) : State :=
  { s with
    cfg := { s.cfg with staged := s.cfg.active, frozen := false },
    commit := if s.commit.state = CommitState.pending then { s.commit with state := .idle, pendingCommit := none }
      else s.commit }

/-- The signature unit at a link reset (R105, R119): running signatures are discarded, each left at FFFFFFFFh (log 36),
and a capture is cancelled. -/
def SignatureUnit.linkReset (u : SignatureUnit) : SignatureUnit :=
  { u with checkers := u.checkers.map fun w => { w with running := crc32Start }, capture := .idle }

/-- The return transmitter at a link reset (R166): both queues emptied, the counters 0 and the down-grant total then
16, the arbiter's record as after power-on; a message begun is sent to its end, uncounted. -/
def State.linkResetReturn (s : State) : State :=
  { s with
    ret := { ReturnTransmitter.initial with sending := s.sendingBytes.map Sending.uncounted },
    events := { s.events with reported := 0 },
    creditDue := true }

/-- The link reset (R137), after the packet has been seen by the lane receiver. -/
def State.linkReset (s : State) : State :=
  let s1 := if s.rx.state = .frame then s.frameBroken else s
  let s2 := { s1 with rx := { s1.rx with state := .hunt } }
  let s3 := s2.stopRunning
  let s4 := { s3 with
    jobs := [],
    banks := s3.banks.releaseAllStaged,
    sig := s3.sig.linkReset,
    cmd := { s3.cmd with queue := [], slots := 0, waiting := false } }
  s4.linkResetCommit.linkResetReturn

/-- A good LR (R124, R137): the part resets, then the LR is forwarded. -/
def takeLr (s : State) : State := s.signalPresent.linkReset.forward (encodePacket .lr)

/-- A good packet of any kind, taken by its kind (R134). -/
def takeGood (p : ForwardPacket) (s : State) : State :=
  match p with
  | .fs frame width height => takeFs frame width height s
  | .ln line pixels => takeLn line pixels s
  | .fe linesSent => takeFe linesSent s
  | .cm c => takeCm c s
  | .cr total => takeCr total s
  | .lr => takeLr s
  | .fill => takeFill s

/-- A packet with a correct CRC-16 whose length agrees with its kind: good, or malformed when a field is out of its
range (R121; log 22). -/
def takePacket (p : ForwardPacket) (s : State) : State :=
  if fieldsInRange p then takeGood p s else takeMalformed (encodePacket p) s

/-- A packet as it arrived, taken by its class (R121 to R123; log 22). -/
def takeBytes (bytes : List Byte) (s : State) : State :=
  match classify bytes with
  | .good p => takeGood p s
  | .malformed => takeMalformed bytes s
  | .bad => takeBad bytes s

/-! ### The meanings -/

/-- POWER_ON_RESET (R179). -/
def execPowerOnReset (s : State) : Host.Outcome State Fault Refusal := .next s.powerOn

/-- RESET_RELEASE (R179): the pin is released, and the part takes packets again. -/
def execResetRelease (s : State) : Host.Outcome State Fault Refusal := .next { s with resetHeld := false }

/-- FS (R125, R126). -/
def execFs (frame width height : Half) (s : State) : Host.Outcome State Fault Refusal :=
  takeStep (fun s => some (takePacket (.fs frame width height) s)) s

/-- LN (R127). -/
def execLn (line : Half) (pixels : List Word) (s : State) : Host.Outcome State Fault Refusal :=
  takeStep (fun s => some (takePacket (.ln line pixels) s)) s

/-- FE (R128). -/
def execFe (linesSent : Half) (s : State) : Host.Outcome State Fault Refusal :=
  takeStep (fun s => some (takePacket (.fe linesSent) s)) s

/-- CM (R139, R169). -/
def execCm (dest tag code : Byte) (payload : List Byte) (s : State) : Host.Outcome State Fault Refusal :=
  takeStep (fun s => some (takePacket (.cm ⟨dest, tag, code, payload⟩) s)) s

/-- CR (R163). -/
def execCr (total : Byte) (s : State) : Host.Outcome State Fault Refusal :=
  takeStep (fun s => some (takePacket (.cr total) s)) s

/-- LINK_RESET (R137). -/
def execLinkReset (s : State) : Host.Outcome State Fault Refusal :=
  takeStep (fun s => some (takePacket .lr s)) s

/-- FILL (R134). -/
def execFill (s : State) : Host.Outcome State Fault Refusal :=
  takeStep (fun s => some (takePacket .fill s)) s

/-- BAD_PACKET (R122); the bytes decide (log 22). -/
def execBadPacket (bytes : List Byte) (s : State) : Host.Outcome State Fault Refusal :=
  takeStep (fun s => some (takeBytes bytes s)) s

/-- MALFORMED_FORWARD_PACKET (R123); the bytes decide (log 22). -/
def execMalformedForwardPacket (bytes : List Byte) (s : State) : Host.Outcome State Fault Refusal :=
  takeStep (fun s => some (takeBytes bytes s)) s

/-- SIGNAL_LOSS_EXPIRY (R132): the timer does not run in NO_SIGNAL and cannot expire there. -/
def execSignalLossExpiry (s : State) : Host.Outcome State Fault Refusal :=
  takeStep (fun s => if s.rx.timer.isSome ∧ s.rx.state ≠ .noSignal then some s.loseSignal else none) s

end Sys2Proof.Machine
end

