-- ==== Sys2Proof/Machine/Dispatch.lean ====
section
/-! DEFINITION. One arm per command. -/

namespace Sys2Proof.Machine

def exec (i : Instr) (s : State) : Host.Outcome State Fault Refusal :=
  match i with
  | .powerOnReset => Sys2Proof.Machine.execPowerOnReset s
  | .fs frame width height => Sys2Proof.Machine.execFs frame width height s
  | .ln line pixels => Sys2Proof.Machine.execLn line pixels s
  | .fe linesSent => Sys2Proof.Machine.execFe linesSent s
  | .guardOutcome => Sys2Proof.Machine.execGuardOutcome s
  | .cm dest tag code payload => Sys2Proof.Machine.execCm dest tag code payload s
  | .cr total => Sys2Proof.Machine.execCr total s
  | .linkReset => Sys2Proof.Machine.execLinkReset s
  | .fill => Sys2Proof.Machine.execFill s
  | .badPacket bytes => Sys2Proof.Machine.execBadPacket bytes s
  | .signalLossExpiry => Sys2Proof.Machine.execSignalLossExpiry s
  | .returnPacket bytes => Sys2Proof.Machine.execReturnPacket bytes s
  | .fillJobEnd => Sys2Proof.Machine.execFillJobEnd s
  | .copyJobEnd => Sys2Proof.Machine.execCopyJobEnd s
  | .checkJobEnd => Sys2Proof.Machine.execCheckJobEnd s
  | .scrubJobEnd => Sys2Proof.Machine.execScrubJobEnd s
  | .waitingCommandResumed => Sys2Proof.Machine.execWaitingCommandResumed s
  | .messageBegun => Sys2Proof.Machine.execMessageBegun s
  | .messageSent => Sys2Proof.Machine.execMessageSent s
  | .evQueued => Sys2Proof.Machine.execEvQueued s
  | .creditAnnouncement => Sys2Proof.Machine.execCreditAnnouncement s
  | .unknownCommand => Sys2Proof.Machine.execUnknownCommand s
  | .setMode => Sys2Proof.Machine.execSetMode s
  | .releaseTable => Sys2Proof.Machine.execReleaseTable s
  | .readTable => Sys2Proof.Machine.execReadTable s
  | .openTable => Sys2Proof.Machine.execOpenTable s
  | .writeTable => Sys2Proof.Machine.execWriteTable s
  | .closeTable => Sys2Proof.Machine.execCloseTable s
  | .discardTable => Sys2Proof.Machine.execDiscardTable s
  | .scrubBank => Sys2Proof.Machine.execScrubBank s
  | .writeConfig => Sys2Proof.Machine.execWriteConfig s
  | .readConfig => Sys2Proof.Machine.execReadConfig s
  | .commit => Sys2Proof.Machine.execCommit s
  | .cancelCommit => Sys2Proof.Machine.execCancelCommit s
  | .confirmCommit => Sys2Proof.Machine.execConfirmCommit s
  | .rollbackCommit => Sys2Proof.Machine.execRollbackCommit s
  | .captureSignature => Sys2Proof.Machine.execCaptureSignature s
  | .readWindow => Sys2Proof.Machine.execReadWindow s
  | .setLinkOptions => Sys2Proof.Machine.execSetLinkOptions s
  | .identify => Sys2Proof.Machine.execIdentify s
  | .readStatus => Sys2Proof.Machine.execReadStatus s
  | .ackEvents => Sys2Proof.Machine.execAckEvents s
  | .setEventMask => Sys2Proof.Machine.execSetEventMask s
  | .claimAddress => Sys2Proof.Machine.execClaimAddress s
  | .malformedForwardPacket bytes => Sys2Proof.Machine.execMalformedForwardPacket bytes s
  | .resetRelease => Sys2Proof.Machine.execResetRelease s

end Sys2Proof.Machine
end

