-- ==== Sys2Proof/Safety.lean ====
section
/-! DEFINITION. What the statements call a sound state: the laws of the spec that every step keeps. A step is safe when
it answers a next state; the part never stops, so the laws are what safety is about here. -/

namespace Sys2Proof.Machine

/-- A step that goes on. -/
def SafeStep (s : State) : Prop := ∃ t, step s = .next t

/-! ### Banks (R27, R28, R29, R45) -/

/-- The banks a handle record holds. -/
def HandleRecord.bankList (r : HandleRecord) : List Bank :=
  (r.active.toList ++ r.staged.toList ++ r.retained.toList).map Side.bank

/-- Every place a bank is in: the free list, the quarantine and withdrawn sets, the sides of all handles (R29). -/
def BankMap.places (b : BankMap) : List Bank :=
  b.free ++ b.quarantine ++ b.withdrawn ++ allHandles.flatMap fun h => (b.record h).bankList

/-- Bank conservation (R29): each of the 16 banks is in exactly one place. -/
abbrev BankMap.Conserved (b : BankMap) : Prop := ∀ k : Bank, b.places.count k = 1

/-- R27: the staged side is present exactly when the staged state is not NONE. -/
abbrev BankMap.StagedAgrees (b : BankMap) : Prop :=
  ∀ h : Handle, (b.record h).staged.isSome = decide ((b.record h).stagedState ≠ .none)

/-- The handle a job works on (R45). -/
def JobWork.handle? : JobWork → Option Handle
  | .fill h => some h
  | .copy h _ _ => some h
  | .check h _ _ => some h
  | .scrub _ => none

/-- The bank a SCRUB works on (R45). -/
def JobWork.scrubbed? : JobWork → Option Bank
  | .scrub b => some b
  | _ => none

/-- The staged state a job's handle is in (R45); the state NONE stands for "no handle". -/
def JobWork.stateOf : JobWork → StagedState
  | .fill _ => .filling
  | .copy _ _ _ => .copying
  | .check _ _ _ => .checking
  | .scrub _ => .none

/-- R27, R45, R47, R63: at most 4 jobs, never two for one handle, each for a handle in its staged state, and one for every
handle in FILLING, COPYING or CHECKING; never two SCRUB jobs for one bank, each for a bank in the quarantine set. -/
structure JobLaw (s : State) : Prop where
  room     : s.jobs.length ≤ Config.jobRoom
  handles  : (s.jobs.filterMap fun j => j.work.handle?).Nodup
  states   : ∀ j ∈ s.jobs, ∀ h, j.work.handle? = some h → (s.banks.record h).stagedState = j.work.stateOf
  busy     : ∀ h : Handle, (s.banks.record h).stagedState ∈ [StagedState.filling, .copying, .checking] →
      ∃ j ∈ s.jobs, j.work.handle? = some h
  scrubs   : (s.jobs.filterMap fun j => j.work.scrubbed?).Nodup
  quarried : ∀ j ∈ s.jobs, ∀ b, j.work.scrubbed? = some b → b ∈ s.banks.quarantine

/-- The commit state is GUARDING or ROLLBACK_PENDING. -/
def State.guardInProgress (s : State) : Bool :=
  decide (s.commit.state = .guarding) || decide (s.commit.state = .rollbackPending)

/-- R70, R74, R75, R28: what is present in each commit state. -/
structure CommitLaw (s : State) : Prop where
  pendingRecord : s.commit.pendingCommit.isSome = decide (s.commit.state = .pending)
  guardedSet    : s.commit.guardedSet.isSome = s.guardInProgress
  saved         : s.cfg.saved.isSome = s.guardInProgress
  counter       : (s.commit.guardCounter != 0) = s.guardInProgress
  retained      : ∀ h : Handle, (s.banks.record h).retained.isSome = true → s.guardInProgress = true
  frozen        : s.cfg.frozen = s.commit.pendingCommit.any PendingCommit.includeConfig
  committing    : ∀ p, s.commit.pendingCommit = some p → ∀ h : Handle, HandleSet.has p.handles h = true →
      (s.banks.record h).stagedState = .committing

/-- The laws of the banks, the jobs and the commit unit together. -/
structure BankInv (s : State) : Prop where
  conserved : s.banks.Conserved
  staged    : s.banks.StagedAgrees
  jobs      : JobLaw s
  commit    : CommitLaw s

/-! ### Reference integrity (R87) -/

/-- R87: every stage of the active configuration names a handle with an active bank; every stage of a saved
configuration names a handle with a retained bank, or with an active bank that a rollback does not take away (the handle
is not of the guarded set). In PENDING, every handle that the configuration about to be active names is of the set or
has an active bank. -/
structure ReferenceIntegrity (s : State) : Prop where
  active : ∀ h : Handle, s.cfg.active.names h = true → (s.banks.record h).active.isSome = true
  saved : ∀ c, s.cfg.saved = some c → ∀ h : Handle, c.names h = true →
    (s.banks.record h).retained.isSome = true ∨
      ((s.banks.record h).active.isSome = true ∧ HandleSet.has (s.commit.guardedSet.getD 0) h = false)
  future : ∀ p, s.commit.pendingCommit = some p → ∀ h : Handle,
    (s.futureConfig p.includeConfig).names h = true →
      HandleSet.has p.handles h = true ∨ (s.banks.record h).active.isSome = true

/-! ### Reply slots (R138, R150, R154) -/

/-- Replies waiting in the own queue. -/
def State.repliesWaiting (s : State) : Nat := s.ret.own.countP fun m => !m.isEvent

/-- Commands taken and not yet replied: the jobs' commands, a command waiting at the head for job room, a capture's
(R150). -/
def State.commandsInProgress (s : State) : Nat :=
  s.jobs.length + (if s.cmd.waiting then 1 else 0) + (if s.sig.capture = .idle then 0 else 1)

/-- R150: each command taken and not yet replied, and each reply waiting, holds one slot, and there are 8; R138: the
command queue holds at most 8. -/
structure SlotLaw (s : State) : Prop where
  slots : s.cmd.slots = s.commandsInProgress + s.repliesWaiting
  bound : s.cmd.slots ≤ Config.replySlots
  queue : s.cmd.queue.length ≤ Config.commandRoom

/-! ### Credit (R162, R164, R165) and the event register (R155 to R157) -/

/-- R162, R164: occupancy plus unused grant is 16, and the upstream credits available are at most 16; R165: a message
being sent stays in its queue place. -/
structure CreditLaw (s : State) : Prop where
  down    : s.ret.pass.length + s.downRoom = 16
  up      : s.upCredits ≤ 16
  sending : (s.ret.sending = some .own → s.ret.own ≠ []) ∧ (s.ret.sending = some .pass → s.ret.pass ≠ [])

/-- R155 to R157: at most one EV in the own queue; reported only for latched kinds; no EV left to be queued. -/
structure EventLaw (s : State) : Prop where
  oneEvent : s.ret.own.countP OwnMessage.isEvent ≤ 1
  reported : s.events.reported &&& ~~~s.events.latched = 0
  settled  : s.eventDue = false

/-! ### Receiver (R120, R132, R133, R168) -/

/-- R120, R132, R133, R168: the timer is stopped exactly in NO_SIGNAL; settings are 1-255; the frame in progress has a
declared size of 1-4096 and follows a boundary; the lines taken stop at 4096; a running capture has a frame in progress;
the address is never 63. -/
structure ReceiverLaw (s : State) : Prop where
  timer    : s.rx.timer.isNone = decide (s.rx.state = .noSignal)
  setting  : s.rx.setting ≠ 0 ∧ s.rx.timer ≠ some 0
  size     : s.rx.state = .frame →
      s.rx.boundarySeen = true ∧ 1 ≤ s.rx.width.toNat ∧ s.rx.width.toNat ≤ 4096 ∧
        1 ≤ s.rx.height.toNat ∧ s.rx.height.toNat ≤ 4096
  lines    : s.rx.linesTaken ≤ 4096
  unknown  : s.rx.boundarySeen = false → s.rx.lastFrame = 0 ∧ s.rx.lastBoundary = 0
  capture  : ∀ r sig, s.sig.capture = .running r sig → s.rx.state = .frame
  address  : s.address ≠ 63

/-! ### Table memory (R22) -/

/-- R22: a stored word carries the parity bit computed from its values. -/
abbrev Memory.Sound (m : Memory) : Prop := ∀ c ∈ m, c.2.parity = parityOf c.2.values

/-- The table memory is in its canonical form and every word in it is sound. -/
structure MemoryLaw (s : State) : Prop where
  canonical : s.mem.wf
  sound     : s.mem.Sound

/-- The word with three values as the memory keeps them. -/
def State.word (s : State) (b : Bank) (i : Comp) : TableWord := s.mem.at (wordAddr b i)

/-- The bank the running job writes, when it writes one (R48, R49, R54). -/
def State.runningBank (s : State) : Option Bank :=
  match s.jobs with
  | ⟨.fill h, _, _⟩ :: _ => (s.banks.record h).staged.map Side.bank
  | ⟨.copy h _ _, _, _⟩ :: _ => (s.banks.record h).staged.map Side.bank
  | ⟨.scrub b, _, _⟩ :: _ => some b
  | _ => none

/-! ### The head command, its answer and the moves of banks, as the statements name them -/

/-- R140: the command `c` is at the head of the command queue and can be taken. -/
structure HeadReady (s : State) (c : CommandPacket) : Prop where
  held  : s.resetHeld = false
  head  : s.cmd.queue.head? = some c
  fresh : s.cmd.waiting = false
  slot  : s.cmd.slots < 8

/-- The head command was taken and has left the queue, its slot reserved (R140, R142). -/
def State.headTaken (s : State) : State :=
  { s with cmd := { s.cmd with queue := s.cmd.queue.tail, slots := s.cmd.slots + 1, waiting := false } }

/-- A reply at the back of the own queue (R145, R154). -/
def State.withReply (s : State) (tag code : Byte) (status : Status) (payload : List Byte) : State :=
  { s with ret := { s.ret with own := s.ret.own ++ [.reply ⟨s.address, tag, code, status, payload⟩] } }

/-- The head command `c` was taken and answered at once (R142, R145); the EV condition is then tested (R157). -/
def State.answered (s : State) (c : CommandPacket) (status : Status) (payload : List Byte) : State :=
  (s.headTaken.withReply c.tag c.code status payload).reportEvents

/-- Kinds raised: bit k of `kinds` for the kind of bit k (Table 11.8-2). -/
def State.latch (s : State) (kinds : BitVec 11) : State :=
  { s with events := { s.events with latched := s.events.latched ||| kinds } }

/-- A packet sent whole on the downstream forward lane. -/
def State.sentDown (s : State) (bytes : List Byte) : State :=
  { s with downOut := s.downOut ++ [⟨bytes, true⟩], downHanded := s.downHanded + 1 }

/-- A message sent whole on the upstream return lane. -/
def State.sentUp (s : State) (bytes : List Byte) : State := { s with upOut := s.upOut ++ [⟨bytes, true⟩] }

/-- The banks of a list of sides that a release sends to the free list, in that order (R32). -/
def freedBanks (sides : List (Option Side)) : List Bank :=
  sides.filterMap fun side => side.bind fun x => if x.mark then none else some x.bank

/-- The banks of a list of sides that a release sends to the quarantine set (R32). -/
def quarantinedBanks (sides : List (Option Side)) : List Bank :=
  sides.filterMap fun side => side.bind fun x => if x.mark then some x.bank else none

/-- The sides of the handles that satisfy a condition, in increasing handle number. -/
def sidesOf (b : BankMap) (which : Handle → Bool) (side : HandleRecord → Option Side) : List (Option Side) :=
  (allHandles.filter which).map fun h => side (b.record h)

/-- What lookups use of a side: its bank and key count (R11, R13). -/
def Side.use (x : Side) : Bank × Nat := (x.bank, x.keyCount)

/-- What the lane receiver holds after a good or malformed packet has shown the signal (R124, R132). -/
def LaneReceiver.seen (r : LaneReceiver) : LaneReceiver :=
  { r with state := if r.state = .noSignal then .hunt else r.state, timer := some r.setting }

/-- SIGNAL_FOUND, when the receiver was in NO_SIGNAL (R124). -/
def LaneReceiver.foundKinds (r : LaneReceiver) : BitVec 11 := if r.state = .noSignal then 0x008 else 0

/-- A good or malformed packet shown to the lane receiver (R124, R132). -/
def State.seen (s : State) : State := { s with rx := s.rx.seen }.latch s.rx.foundKinds

/-- What the start, the end and the loss of a frame leave as it is: the table memory, jobs, commands, the mask, the address,
what the return lane carried, and, of the return transmitter, everything but new messages behind those in the own queue. -/
structure FrameKeeps (s t : State) : Prop where
  mem      : t.mem = s.mem
  jobs     : t.jobs = s.jobs
  cmd      : t.cmd = s.cmd
  masked   : t.events.masked = s.events.masked
  address  : t.address = s.address
  upOut    : t.upOut = s.upOut
  ret      : t.ret = { s.ret with own := t.ret.own }
  own      : s.ret.own <+: t.ret.own
  held     : t.resetHeld = s.resetHeld
  reads    : t.reads = s.reads
  abandons : t.abandons = s.abandons
  resets   : t.resets = s.resets
  pending  : t.pending = s.pending

/-! ### What the statements say in their own words about packets and lines -/

/-- R179: a packet cut off: a shorter run of its first bytes, not whole. -/
def LanePacket.CutShort (p q : LanePacket) : Prop :=
  q.whole = false ∧ ∃ k, k ≤ p.bytes.length - 1 ∧ q.bytes = p.bytes.take k

/-- R179: what the downstream forward lane has carried after a power-on reset: all of it, or, of the packets handed to it
since the power-on reset before (log 37), all but the last few, the first of which is cut off. -/
def ForwardLaneCut (s t : State) : Prop :=
  t.downOut = s.downOut ∨ ∃ kept p q, kept ++ [p] <+: s.downOut ∧ s.downOut.length - s.downHanded ≤ kept.length ∧
    p.CutShort q ∧ t.downOut = kept ++ [q]

/-- R121: the list of what makes a packet with a correct CRC-16 malformed, on its content: all its bytes but the CRC-16,
with the fields at the offsets of Table 11.2-2. -/
def MalformedContent (content : List Byte) : Prop :=
  let kind := byteAt content 0
  kind ∉ [0x00, 0x10, 0x11, 0x12, 0x20, 0x30, 0x3F] ∨
  (kind ∈ [0x00, 0x3F] ∧ content.length ≠ 1) ∨
  (kind = 0x30 ∧ content.length ≠ 2) ∨
  (kind = 0x12 ∧ (content.length ≠ 3 ∨ 4096 < (halfAt content 1).toNat)) ∨
  (kind = 0x10 ∧ (content.length ≠ 7 ∨ (halfAt content 3).toNat = 0 ∨ 4096 < (halfAt content 3).toNat ∨
    (halfAt content 5).toNat = 0 ∨ 4096 < (halfAt content 5).toNat)) ∨
  (kind = 0x11 ∧ (content.length < 5 ∨ content.length ≠ 5 + 4 * (halfAt content 3).toNat ∨
    4095 < (halfAt content 1).toNat ∨ (halfAt content 3).toNat = 0 ∨ 4096 < (halfAt content 3).toNat)) ∨
  (kind = 0x20 ∧ (content.length < 5 ∨ content.length ≠ 5 + (byteAt content 4).toNat ∨ 136 < (byteAt content 4).toNat))

/-- R104, R106, R116: the pixels that a line feeds to a signature over a rectangle: when its number lies within y0-y1,
those at positions x0 to x1 that it holds, in order. -/
def lineFed (r : Rect) (line : Nat) (pixels : List Triple) : List Triple :=
  if r.y0.toNat ≤ line ∧ line ≤ r.y1.toNat then
    (pixels.zipIdx.filter fun px => decide (r.x0.toNat ≤ px.2 ∧ px.2 ≤ r.x1.toNat)).map Prod.fst
  else []

/-- R21, R106, R116: what a frame line leaves of the signature unit. The output pixels are fed to the running signature of
every window in CHECK, and the pixels at its point to that of a RUNNING capture. -/
structure SignaturesFed (s : State) (line : Nat) (input output : List Triple) (sig : SignatureUnit) : Prop where
  windows     : ∀ k : Fin 4, sig.checkers[k.val] =
      if s.cfg.active.windows[k.val].mode = .check then
        { s.sig.checkers[k.val] with
          running := crc32Triples s.sig.checkers[k.val].running (lineFed s.cfg.active.windows[k.val].rect line output) }
      else s.sig.checkers[k.val]
  running     : ∀ r signature, s.sig.capture = .running r signature → sig.capture =
      .running r (crc32Triples signature (lineFed r.rect line (match r.point with | .input => input | .output => output)))
  still       : (∀ r signature, s.sig.capture ≠ .running r signature) → sig.capture = s.sig.capture
  mismatchSet : sig.mismatchSet = s.sig.mismatchSet

/-- R18: the read of word `i` of a bank, the `n`-th of all (log 6), is faulty. -/
def FaultyRead (disturb : Nat → Option Triple) (m : Memory) (bank : Bank) (n : Nat) (i : Comp) : Prop :=
  (readWord disturb m n bank i).faulty = true

/-- The values stored in a word. -/
def storedValues (m : Memory) (bank : Bank) (i : Comp) : Triple := (m.at (wordAddr bank i)).values

/-- The control word stored in key record `k`. -/
def storedKey (m : Memory) (bank : Bank) (k : Nat) : KeyControl := KeyControl.ofTriple (storedValues m bank (keyWord k 3))

/-- R17: key record `k` matches the pixel. -/
def KeyMatches (m : Memory) (bank : Bank) (px : Triple) (k : Nat) : Prop :=
  (storedKey m bank k).valid = true ∧ ((storedKey m bank k).matchesAll = true ∨
    (storedKey m bank k).within (storedValues m bank (keyWord k 0)) (storedValues m bank (keyWord k 1)) px = true)

/-- R17: the reads made of a record that does not match: its control word, and, when it is valid, its two bounds. -/
def keyReads (m : Memory) (bank : Bank) (k : Nat) : Nat := if (storedKey m bank k).valid then 3 else 1

/-- R17, R18: the examination of key record `k`, its control word the `n`-th read, meets a fault: at its control word, at
a bound of a valid record with a mask, or at the replacement word of a matching REPLACE record. -/
def KeyRecordFaulty (disturb : Nat → Option Triple) (m : Memory) (bank : Bank) (px : Triple) (k n : Nat) : Prop :=
  let key := storedKey m bank k
  FaultyRead disturb m bank n (keyWord k 3) ∨
  (key.valid = true ∧ key.matchesAll = false ∧
    (FaultyRead disturb m bank (n + 1) (keyWord k 0) ∨ FaultyRead disturb m bank (n + 2) (keyWord k 1))) ∨
  (KeyMatches m bank px k ∧ key.pass = false ∧
    FaultyRead disturb m bank (n + if key.matchesAll then 1 else 3) (keyWord k 2))

/-- R16, R17, R18: a KEY search whose reads begin with the `n`-th meets a fault: at some record, the records before it
neither matching nor faulty. -/
def KeySearchFaulty (disturb : Nat → Option Triple) (m : Memory) (bank : Bank) (px : Triple) (n keyCount : Nat) : Prop :=
  let first (k : Nat) : Nat := n + ((List.range k).map (keyReads m bank)).sum
  ∃ k < keyCount, (∀ j < k, ¬ KeyMatches m bank px j ∧ ¬ KeyRecordFaulty disturb m bank px j (first j)) ∧
    KeyRecordFaulty disturb m bank px k (first k)

/-- The commands of Table 11.7-1: code, the row that executes it, and its payload length; WRITE_TABLE, whose length
depends on its word count, apart. -/
def fixedCommands : List (Byte × Instr × Nat) :=
  [(0x01, .identify, 0), (0x02, .readStatus, 0), (0x03, .claimAddress, 1), (0x04, .setLinkOptions, 1),
   (0x05, .ackEvents, 2), (0x06, .setEventMask, 2), (0x10, .setMode, 1), (0x20, .openTable, 2), (0x22, .closeTable, 8),
   (0x23, .discardTable, 1), (0x24, .scrubBank, 1), (0x25, .releaseTable, 1), (0x26, .readTable, 5),
   (0x30, .writeConfig, 22), (0x31, .readConfig, 3), (0x32, .commit, 7), (0x33, .cancelCommit, 0),
   (0x34, .confirmCommit, 0), (0x35, .rollbackCommit, 0), (0x40, .captureSignature, 9), (0x41, .readWindow, 1)]

/-- R68: a rectangle at offset `i` of a record area has a coordinate above 4095, x0 > x1, or y0 > y1. -/
def RectInvalid (area : List Byte) (i : Nat) : Prop :=
  (∃ j ∈ [i, i + 2, i + 4, i + 6], 4095 < (halfAt area j).toNat) ∨
    (halfAt area (i + 4)).toNat < (halfAt area i).toNat ∨ (halfAt area (i + 6)).toNat < (halfAt area (i + 2)).toNat

/-- R68: what makes a carried record invalid, list entry by list entry, with the fields at the offsets of Table 11.6-1. -/
def RecordInvalid (area : List Byte) : RecordName → Prop
  | .chain _ => 4 < (byteAt area 0).toNat ∨ ∃ s < (byteAt area 0).toNat,
      byteAt area (1 + 4 * s) ∉ [1, 2, 3] ∨
      (byteAt area (2 + 4 * s)).toNat = 0 ∨ 10 < (byteAt area (2 + 4 * s)).toNat ∨
      (byteAt area (1 + 4 * s) = 2 ∧ 2 < (byteAt area (3 + 4 * s)).toNat)
  | .region _ => RectInvalid area 2 ∨ 3 < (byteAt area 1).toNat
  | .window _ => RectInvalid area 4 ∨ 1 < (byteAt area 0).toNat ∨ 1 < (byteAt area 1).toNat ∨
      (byteAt area 2).toNat = 0 ∨ 15 < (byteAt area 2).toNat

/-- A rectangle holds the four coordinates at offset `i` of a record area. -/
def Rect.Holds (r : Rect) (area : List Byte) (i : Nat) : Prop :=
  r.x0.toNat = (halfAt area i).toNat ∧ r.y0.toNat = (halfAt area (i + 2)).toNat ∧
    r.x1.toNat = (halfAt area (i + 4)).toNat ∧ r.y1.toNat = (halfAt area (i + 6)).toNat

/-- A configuration holds, as its record of a name, the fields carried in a record area (R66, R67, Table 11.6-1): a chain
as many stages as its count; the mask of a CURVE stage is its low three bits. -/
def Configuration.Holds (c : Configuration) (area : List Byte) : RecordName → Prop
  | .chain k => c.chains[k.val].length = (byteAt area 0).toNat ∧ ∀ s st, c.chains[k.val][s]? = some st →
      byteAt area (1 + 4 * s) = (match st.kind with | .curve => 1 | .palette => 2 | .key => 3) ∧
      byteAt area (2 + 4 * s) = handleByte st.handle ∧
      (if st.kind = .curve then st.option &&& 7 = byteAt area (3 + 4 * s) &&& 7 else st.option = byteAt area (3 + 4 * s))
  | .region k => c.regions[k.val].enabled = (byteAt area 0).getLsbD 0 ∧
      c.regions[k.val].chain.val = (byteAt area 1).toNat ∧ c.regions[k.val].rect.Holds area 2
  | .window k => (c.windows[k.val].mode = .check ↔ byteAt area 0 = 1) ∧ (c.windows[k.val].action = .fallback ↔ byteAt area 1 = 1) ∧
      c.windows[k.val].threshold.toNat = (byteAt area 2).toNat ∧ c.windows[k.val].guardMember = (byteAt area 3).getLsbD 0 ∧
      c.windows[k.val].rect.Holds area 4 ∧ c.windows[k.val].expected = wordAt area 12

/-- What a command sends on the downstream forward lane (R136): the packet that arrived, or, for a frame line in
ACTIVE, a line with the same line number and pixel count, or the CR of a due announcement. -/
def Forwards (s : State) (c : Instr) (p : List Byte) : Prop :=
  match c with
  | .fs frame width height => p = encodePacket (.fs frame width height)
  | .ln line pixels => ∃ words, words.length = pixels.length ∧ p = encodePacket (.ln line words) ∧
      (s.rx.state ≠ .frame ∨ s.pix.mode ≠ .active → words = pixels)
  | .fe linesSent => p = encodePacket (.fe linesSent)
  | .cm dest tag code payload =>
      (dest.extractLsb' 0 6 = 63 ∨ dest.extractLsb' 0 6 ≠ s.address) ∧ p = encodePacket (.cm ⟨dest, tag, code, payload⟩)
  | .linkReset => p = encodePacket .lr
  | .fill => p = encodePacket .fill
  | .badPacket bytes => p = bytes
  | .malformedForwardPacket bytes => p = bytes
  | .creditAnnouncement => s.creditDue = true ∧ p = encodePacket (.cr s.ret.downGrant)
  | _ => False

end Sys2Proof.Machine
end

