-- ==== Sys2Proof/WellFormed.lean ====
section
/-! DEFINITION. Which command terms name an event the link can deliver. FS, LN, FE and CM carry fields inside the
ranges of R121; BAD_PACKET carries bytes whose CRC-16 is incorrect (R122) and MALFORMED_FORWARD_PACKET bytes that are
malformed (R121, R123). Every other term is well formed. exec does not rest on this check: it looks at the packet
itself (log 22). -/

namespace Sys2Proof

/-- The check, for each command. -/
def Instr.wellFormed : Instr → Bool
  | .fs frame width height => Machine.fieldsInRange (.fs frame width height)
  | .ln line pixels => Machine.fieldsInRange (.ln line pixels)
  | .fe linesSent => Machine.fieldsInRange (.fe linesSent)
  | .cm dest tag code payload => Machine.fieldsInRange (.cm ⟨dest, tag, code, payload⟩)
  | .badPacket bytes => Machine.classify bytes == .bad
  | .malformedForwardPacket bytes => Machine.classify bytes == .malformed
  | .powerOnReset => true
  | .guardOutcome => true
  | .cr _ => true
  | .linkReset => true
  | .fill => true
  | .signalLossExpiry => true
  | .returnPacket _ => true
  | .fillJobEnd => true
  | .copyJobEnd => true
  | .checkJobEnd => true
  | .scrubJobEnd => true
  | .waitingCommandResumed => true
  | .messageBegun => true
  | .messageSent => true
  | .evQueued => true
  | .creditAnnouncement => true
  | .unknownCommand => true
  | .setMode => true
  | .releaseTable => true
  | .readTable => true
  | .openTable => true
  | .writeTable => true
  | .closeTable => true
  | .discardTable => true
  | .scrubBank => true
  | .writeConfig => true
  | .readConfig => true
  | .commit => true
  | .cancelCommit => true
  | .confirmCommit => true
  | .rollbackCommit => true
  | .captureSignature => true
  | .readWindow => true
  | .setLinkOptions => true
  | .identify => true
  | .readStatus => true
  | .ackEvents => true
  | .setEventMask => true
  | .claimAddress => true
  | .resetRelease => true

end Sys2Proof
end

