-- ==== Sys2Proof/Certificates/Slice0/Obligations.lean ====
section
/-! DEFINITION. The statements for the provers. Each docstring names the rules it formalises. The numbers of kinds in
`latch` are bits of Table 11.8-2. -/

section Statements

open Sys2Proof Sys2Proof.Machine

/-! ### The step, the laws every step keeps, and laws of the whole machine -/

/-- A step takes the command at the front of the queue and runs it with the queue's rest; on an empty queue the part
idles (the model's own queue, log 4). -/
def Obligations.StepRunsFrontCommand : Prop :=
  (∀ (s : State) (c : Instr) (rest : List Instr), s.pending = c :: rest → step s = exec c { s with pending := rest }) ∧
  ∀ s : State, s.pending = [] → step s = .next s

/-- The part never stops: every step answers a next state. The queue that loses its front is the model's own (log 4), and a
row whose cause is not present answers next all the same by the model's choice (log 2). -/
def Obligations.EveryStepGoesOn : Prop := ∀ s : State, ∃ t, step s = .next t ∧ t.pending = s.pending.tail

/-- The state after power-on reset satisfies every law of Safety.lean. (That unknown frame numbers stand at 0 is the model's
choice, log 19; the canonical form of the memory is the model's own, log 8 and log 11.) -/
def Obligations.ResetSatisfiesLaws : Prop :=
  MemoryLaw State.reset ∧ BankInv State.reset ∧ ReferenceIntegrity State.reset ∧ SlotLaw State.reset ∧
    CreditLaw State.reset ∧ EventLaw State.reset ∧ ReceiverLaw State.reset

/-- R22: every word in the table memory carries the parity of its values. The list of words stays in its canonical form,
which is the model's own (log 8, log 11). -/
def Obligations.MemoryLawKept : Prop := ∀ s t : State, MemoryLaw s → step s = .next t → MemoryLaw t

/-- R27, R28, R29, R45, R70, R74, R75: bank conservation, staged sides, jobs and commit state. -/
def Obligations.BankLawsKept : Prop := ∀ s t : State, BankInv s → step s = .next t → BankInv t

/-- R87: reference integrity. -/
def Obligations.ReferenceIntegrityKept : Prop :=
  ∀ s t : State, BankInv s → ReferenceIntegrity s → step s = .next t → ReferenceIntegrity t

/-- R138, R150: the reply-slot bound. -/
def Obligations.ReplySlotLawKept : Prop := ∀ s t : State, BankInv s → SlotLaw s → step s = .next t → SlotLaw t

/-- R162, R164, R165: the credit bound; R155, R156, R157: one EV at a time, reported kinds are latched, no EV left
unqueued; R120, R132, R133, R168: the ranges of the lane receiver and of the address. (That both frame numbers stand at 0
while no boundary has been seen is the model's choice, log 19.) -/
def Obligations.LinkLawsKept : Prop :=
  ∀ s t : State, step s = .next t →
    (CreditLaw s → CreditLaw t) ∧ (EventLaw s → EventLaw t) ∧ (ReceiverLaw s → ReceiverLaw t)

/-- R36: no word of an active or retained side is written by any step; a word that changes is in a quarantined bank or on
the staged side of a handle in FILLING, COPYING or OPEN. -/
def Obligations.ActiveBanksNeverWritten : Prop :=
  ∀ s t : State, BankInv s → step s = .next t →
    (∀ (h : Handle) (side : Side), (s.banks.record h).active = some side ∨ (s.banks.record h).retained = some side →
      ∀ i : Comp, t.word side.bank i = s.word side.bank i) ∧
    ∀ (b : Bank) (i : Comp), t.word b i ≠ s.word b i → b ∈ s.banks.quarantine ∨
      ∃ (h : Handle) (side : Side), (s.banks.record h).staged = some side ∧ side.bank = b ∧
        (s.banks.record h).stagedState ∈ [StagedState.filling, .copying, .opened]

/-- R11: the mode, the active configuration and the active banks with their key counts change only at a frame boundary
and at power-on reset, and an active bank also by a RELEASE_TABLE of a handle that no configuration names. -/
def Obligations.FrameCoherence : Prop :=
  ∀ (s t : State) (c : Instr) (rest : List Instr), s.pending = c :: rest → c.wellFormed = true → step s = .next t →
    c = .powerOnReset ∨ (∃ f width height, c = .fs f width height ∧ s.rx.state ≠ ReceiverState.frame) ∨
      (t.pix.mode = s.pix.mode ∧ t.cfg.active = s.cfg.active ∧
        ∀ h : Handle, (t.banks.record h).active.map Side.use = (s.banks.record h).active.map Side.use ∨
          (c = .releaseTable ∧ (t.banks.record h).active = none ∧ s.cfg.active.names h = false ∧
            s.cfg.staged.names h = false ∧ ∀ saved, s.cfg.saved = some saved → saved.names h = false))

/-- R161: a message joins the pass queue at the back and leaves it only from the front, sent upstream unchanged, unless
a reset empties the queue. -/
def Obligations.RelayFidelity : Prop :=
  ∀ (s t : State) (c : Instr) (rest : List Instr), s.pending = c :: rest → c.wellFormed = true → step s = .next t →
    t.ret.pass = s.ret.pass ∨
    (∃ bytes, c = .returnPacket bytes ∧ t.ret.pass = s.ret.pass ++ [bytes]) ∨
    (∃ m, c = .messageSent ∧ s.ret.pass = m :: t.ret.pass ∧ t.upOut = s.upOut ++ [⟨m, true⟩]) ∨
    (t.ret.pass = [] ∧ (c = .powerOnReset ∨ c = .linkReset))

/-- R136: each step sends on the downstream forward lane at most the one packet that belongs to its command. R179: the
reset pin may cut off what the lane is sending (log 37). -/
def Obligations.ForwardOrder : Prop :=
  ∀ (s t : State) (c : Instr) (rest : List Instr), s.pending = c :: rest → s.resetHeld = false → c.wellFormed = true →
    step s = .next t →
    (∃ p, Forwards s c p ∧ t.downOut = s.downOut ++ [⟨p, true⟩]) ∨
    ((∀ p, ¬ Forwards s c p) ∧ (t.downOut = s.downOut ∨ (c = .powerOnReset ∧ ForwardLaneCut s t)))

/-- R121, R175, R176, Table 11.2-2: a well-formed packet, written out with its CRC-16, is classified as good and read
back field by field; and what is classified as good is that packet written out. -/
def Obligations.ForwardPacketsRoundTrip : Prop :=
  (∀ p : ForwardPacket, fieldsInRange p = true → classify (encodePacket p) = .good p) ∧
  ∀ (bytes : List Byte) (p : ForwardPacket), classify bytes = .good p → fieldsInRange p = true ∧ encodePacket p = bytes

/-! ### Resets -/

/-- R43, R88, R153 and the power-on values of R1, R25, R74, R105, R119, R120, R138, R156, R162, R167, R168: POWER_ON_RESET
from any state. Words are not written, but for the bank of a job that was running when the pin was asserted (R65, log 10).
R179: what a lane is sending, on the idle return lane a return FILL (R165), is cut off; how much of it had left is a free
value (log 37). -/
def Obligations.PowerOnResetRestoresStart : Prop :=
  ∀ s : State, ∃ t, exec .powerOnReset s = .next t ∧ t.resetHeld = true ∧
    t.banks.free = [0, 1, 2, 3, 4, 5, 6, 7, 8, 9, 10, 11, 12, 13, 14, 15] ∧ t.banks.quarantine = [] ∧
    t.banks.withdrawn = [] ∧ (∀ h : Handle, t.banks.record h = ⟨none, none, none, .none, 0, false, 0⟩) ∧ t.jobs = [] ∧
    (∀ b i, s.runningBank ≠ some b → t.word b i = s.word b i) ∧
    t.cfg.staged = t.cfg.active ∧ t.cfg.saved = none ∧ t.cfg.frozen = false ∧
    (∀ k : Fin 4, t.cfg.active.chains[k.val] = []) ∧
    (∀ k : Fin 6, t.cfg.active.regions[k.val] = ⟨false, ⟨0, 0, 0, 0⟩, 0⟩) ∧
    (∀ k : Fin 4, t.cfg.active.windows[k.val] = ⟨.off, ⟨0, 0, 0, 0⟩, 0, 1, .report, false⟩) ∧
    t.commit.state = .idle ∧ t.commit.pendingCommit = none ∧ t.commit.guardedSet = none ∧ t.commit.guardCounter = 0 ∧
    t.commit.lastApplied = false ∧ (∀ target, t.targetPast target = false) ∧ t.pix = ⟨.bypass, none⟩ ∧
    (∀ k : Fin 4, t.sig.checkers[k.val].count = 0 ∧ t.sig.checkers[k.val].lastSignature = none ∧
      t.sig.checkers[k.val].matched = 0 ∧ t.sig.checkers[k.val].mismatched = 0 ∧ t.sig.checkers[k.val].skipped = 0) ∧
    t.sig.mismatchSet = 0 ∧ t.sig.capture = .idle ∧
    t.rx.state = .noSignal ∧ t.rx.boundarySeen = false ∧ t.rx.linkErrors = 0 ∧ t.rx.brokenFrames = 0 ∧
    t.rx.setting = 40 ∧ t.rx.timer = none ∧ t.cmd = ⟨[], 0, 0, false⟩ ∧
    t.ret.own = [] ∧ t.ret.pass = [] ∧ t.ret.downGrant = 16 ∧ t.ret.downReceived = 0 ∧ t.ret.upGrant = 0 ∧
    t.ret.upSent = 0 ∧ t.ret.lastServed = .own ∧ t.events = ⟨0, 0, 0⟩ ∧ t.creditDue = true ∧ t.address = 0 ∧
    t.ret.sending = none ∧ ForwardLaneCut s t ∧ (s.resetHeld = true → t.upOut = s.upOut) ∧
    (s.resetHeld = false → ∃ q, LanePacket.CutShort ⟨s.sendingBytes.getD [0x00, 0xE1, 0xF0], true⟩ q ∧
      t.upOut = s.upOut ++ [q])

/-- R179: while the pin is asserted nothing but its release takes place; at the release nothing else changes. -/
def Obligations.ResetPinHoldsThePart : Prop :=
  (∀ s : State, exec .resetRelease s = .next { s with resetHeld := false }) ∧
  ∀ (s : State) (c : Instr), s.resetHeld = true → c ≠ .powerOnReset → c ≠ .resetRelease → exec c s = .next s

/-- R64, R119, R152, R166 and R137: what LINK_RESET clears. `kinds` are those latched by the step: SIGNAL_FOUND in
NO_SIGNAL, FRAME_BROKEN in FRAME. -/
def Obligations.LinkResetClearsManagement : Prop :=
  ∀ s : State, s.resetHeld = false → ∃ t, exec .linkReset s = .next t ∧
    t.jobs = [] ∧ t.sig.capture = .idle ∧ t.cmd = ⟨[], 0, s.cmd.dropped, false⟩ ∧
    t.ret.pass = [] ∧ t.ret.downGrant = 16 ∧ t.ret.downReceived = 0 ∧ t.ret.upGrant = 0 ∧ t.ret.upSent = 0 ∧
    t.ret.lastServed = .own ∧ t.ret.sending = s.sendingBytes.map .uncounted ∧ t.creditDue = true ∧
    t.downOut = s.downOut ++ [⟨encodePacket .lr, true⟩] ∧ t.downHanded = s.downHanded + 1 ∧
    t.events.latched = s.events.latched ||| s.rx.foundKinds ||| (if s.rx.state = .frame then 0x002 else 0) ∧
    t.events.masked = s.events.masked ∧
    (if t.events.latched &&& ~~~s.events.masked = 0 then t.ret.own = [] ∧ t.events.reported = 0
     else t.events.reported = t.events.latched ∧ ∃ e, t.ret.own = [.event e] ∧ e.kinds = t.events.latched)

/-- R44, R89, R102, R105, R120, R168 and R137: what LINK_RESET keeps, and where staged banks go. The words of the bank of
an abandoned job are left open (log 10), and so are the running signatures, which R105 discards (log 36). That outcomes
handed over and not yet taken stay is read from the spec (log 25). -/
def Obligations.LinkResetKeepsThePicture : Prop :=
  ∀ s : State, s.resetHeld = false → s.banks.StagedAgrees → ∃ t, exec .linkReset s = .next t ∧
    (∀ h : Handle, t.banks.record h = { s.banks.record h with staged := none, stagedState := .none }) ∧
    t.banks.free = s.banks.free ++ freedBanks (sidesOf s.banks (fun _ => true) (·.staged)) ∧
    t.banks.quarantine = s.banks.quarantine ++ quarantinedBanks (sidesOf s.banks (fun _ => true) (·.staged)) ∧
    t.banks.withdrawn = s.banks.withdrawn ∧ (∀ b i, s.runningBank ≠ some b → t.word b i = s.word b i) ∧
    t.pix = s.pix ∧ t.cfg = { s.cfg with staged := s.cfg.active, frozen := false } ∧
    t.commit = (if s.commit.state = .pending then { s.commit with state := .idle, pendingCommit := none } else s.commit) ∧
    (∀ k : Fin 4, t.sig.checkers[k.val] = { s.sig.checkers[k.val] with running := t.sig.checkers[k.val].running }) ∧
    t.sig.mismatchSet = s.sig.mismatchSet ∧ t.address = s.address ∧ t.upOut = s.upOut ∧
    t.rx = { s.rx with state := .hunt, timer := some s.rx.setting,
                       brokenFrames := if s.rx.state = .frame then saturate16 s.rx.brokenFrames else s.rx.brokenFrames }

/-! ### Packets on the forward lane -/

/-- R121: which packets are bad and which malformed (one of fewer than three bytes is bad, log 23). R122: a bad packet;
R123, R124: a malformed packet, which also shows the signal. R176: the CRC-16 of the nine digits. (That a bad or malformed FE
makes no announcement due is log 35.) -/
def Obligations.BadAndMalformedPackets : Prop :=
  crc16 [0x31, 0x32, 0x33, 0x34, 0x35, 0x36, 0x37, 0x38, 0x39] = 0x29B1 ∧
  (∀ bytes : List Byte,
    let content := bytes.take (bytes.length - 2)
    let correct : Prop := 3 ≤ bytes.length ∧ bytes.drop (bytes.length - 2) = bytes16 (crc16 content)
    (classify bytes = .bad ↔ ¬ correct) ∧ (classify bytes = .malformed ↔ correct ∧ MalformedContent content)) ∧
  ∀ (s : State) (bytes : List Byte), s.resetHeld = false →
    let broken := s.rx.broken || (decide (s.rx.state = .frame) && decide (bytes.head? = some 0x11))
    (classify bytes = .bad → exec (.badPacket bytes) s = .next (({ s with rx := { s.rx with
        linkErrors := saturate16 s.rx.linkErrors, broken := broken } }.latch 0x001).sentDown bytes).reportEvents) ∧
    (classify bytes = .malformed → exec (.malformedForwardPacket bytes) s = .next (({ s.seen with rx := { s.rx.seen with
        linkErrors := saturate16 s.rx.linkErrors, broken := broken } }.latch 0x001).sentDown bytes).reportEvents)

/-- R106, R116, R124, R125: an FS taken outside FRAME is a frame boundary. Of the kinds only SIGNAL_FOUND, COMMIT_APPLIED,
ROLLED_BACK and FALLBACK_ENTERED can be raised by it, COMMIT_APPLIED and ROLLED_BACK only when the commit unit was not in
IDLE or GUARDING. -/
def Obligations.FrameBoundaryRecorded : Prop :=
  ∀ (s : State) (frame width height : Half), s.resetHeld = false → s.rx.state ≠ .frame →
    fieldsInRange (.fs frame width height) = true → ∃ t, exec (.fs frame width height) s = .next t ∧
      t.rx = { s.rx with state := .frame, boundarySeen := true, lastFrame := frame, lastBoundary := frame, width := width,
                         height := height, linesTaken := 0, broken := false, timer := some s.rx.setting } ∧
      t.downOut = s.downOut ++ [⟨encodePacket (.fs frame width height), true⟩] ∧ t.downHanded = s.downHanded + 1 ∧
      (∀ k : Fin 4, t.sig.checkers[k.val].running =
        if t.cfg.active.windows[k.val].mode = .check then 0xFFFFFFFF else s.sig.checkers[k.val].running) ∧
      (∀ r, s.sig.capture = .armed r → t.sig.capture = .running r 0xFFFFFFFF) ∧
      ((∀ r, s.sig.capture ≠ .armed r) → t.sig.capture = s.sig.capture) ∧
      (s.commit.state = .idle ∨ s.commit.state = .guarding → t.commit = s.commit ∧ t.cfg = s.cfg ∧ t.banks = s.banks ∧
        t.events.latched &&& 0x050 = s.events.latched &&& 0x050 ∧
        ∀ k : Fin 4, t.sig.checkers[k.val] = { s.sig.checkers[k.val] with running := t.sig.checkers[k.val].running }) ∧
      FrameKeeps s t ∧ t.creditDue = s.creditDue ∧ t.sig.mismatchSet = s.sig.mismatchSet ∧
      t.events.latched &&& ~~~0x158 = s.events.latched &&& ~~~0x158 ∧
      (t.events.latched.getLsbD 3 = true ↔ s.events.latched.getLsbD 3 = true ∨ s.rx.state = .noSignal)

/-- R9: the pending mode becomes the mode at a frame boundary, and FALLBACK_ENTERED is raised when it is FALLBACK; at an
overrun start it stays where it is. -/
def Obligations.PendingModeAppliedAtBoundary : Prop :=
  ∀ (s : State) (frame width height : Half), s.resetHeld = false → fieldsInRange (.fs frame width height) = true →
    ∃ t, exec (.fs frame width height) s = .next t ∧
      (s.rx.state = .frame ∨ s.pix.pendingMode = none →
        t.pix = s.pix ∧ t.events.latched.getLsbD 8 = s.events.latched.getLsbD 8) ∧
      (∀ m, s.rx.state ≠ .frame → s.pix.pendingMode = some m →
        t.pix = ⟨m, none⟩ ∧ (m = .fallback → t.events.latched.getLsbD 8 = true) ∧
          (m ≠ .fallback → t.events.latched.getLsbD 8 = s.events.latched.getLsbD 8))

/-- R126, R118: an FS taken in FRAME is an overrun start; the commit unit and the bank map do not learn of it. -/
def Obligations.OverrunStartBreaksFrame : Prop :=
  ∀ (s : State) (frame width height : Half), s.resetHeld = false → s.rx.state = .frame →
    fieldsInRange (.fs frame width height) = true → ∃ t, exec (.fs frame width height) s = .next t ∧
      t.rx = { s.rx with lastFrame := frame, width := width, height := height, linesTaken := 0, broken := false,
                         timer := some s.rx.setting, brokenFrames := saturate16 s.rx.brokenFrames } ∧
      t.events.latched = s.events.latched ||| 0x002 ∧
      t.downOut = s.downOut ++ [⟨encodePacket (.fs frame width height), true⟩] ∧ t.downHanded = s.downHanded + 1 ∧
      t.pix = s.pix ∧ t.commit = s.commit ∧ t.cfg = s.cfg ∧ t.banks = s.banks ∧ FrameKeeps s t ∧
      t.creditDue = s.creditDue ∧ t.sig.mismatchSet = s.sig.mismatchSet ∧ (s.sig.capture = .idle → t.sig.capture = .idle) ∧
      (∀ k : Fin 4, t.sig.checkers[k.val] = (if s.cfg.active.windows[k.val].mode = .check
        then { s.sig.checkers[k.val] with running := 0xFFFFFFFF } else s.sig.checkers[k.val])) ∧
      (∀ r, s.sig.capture = .armed r → t.sig.capture = .running r 0xFFFFFFFF)

/-- R37, R80, R81: the pending commit at a frame boundary. COMMIT_APPLIED is raised when it is applied and only then, and
ROLLED_BACK is not raised. -/
def Obligations.CommitAppliedAtBoundary : Prop :=
  ∀ (s : State) (frame width height : Half) (p : PendingCommit), s.resetHeld = false → s.rx.state ≠ .frame →
    fieldsInRange (.fs frame width height) = true → s.commit.state = .pending → s.commit.pendingCommit = some p →
    ∃ t, exec (.fs frame width height) s = .next t ∧
      (p.target ≠ .next → (∀ n, p.target = .at n → 32768 ≤ (frame - n).toNat) →
        t.commit = s.commit ∧ t.banks = s.banks ∧ t.cfg = s.cfg ∧
          t.events.latched.getLsbD 4 = s.events.latched.getLsbD 4) ∧
      t.events.latched.getLsbD 6 = s.events.latched.getLsbD 6 ∧
      ((p.target = .next ∨ ∃ n, p.target = .at n ∧ (frame - n).toNat < 32768) →
        (∀ h : Handle, t.banks.record h =
          if HandleSet.has p.handles h then
            { s.banks.record h with
              active := (s.banks.record h).staged, staged := none, stagedState := .none,
              retained := if p.guardFrames ≠ 0 ∧ (s.banks.record h).active ≠ none then (s.banks.record h).active
                else (s.banks.record h).retained }
          else s.banks.record h) ∧
        t.banks.free = s.banks.free ++
          (if p.guardFrames = 0 then freedBanks (sidesOf s.banks (HandleSet.has p.handles) (·.active)) else []) ∧
        t.banks.quarantine = s.banks.quarantine ++
          (if p.guardFrames = 0 then quarantinedBanks (sidesOf s.banks (HandleSet.has p.handles) (·.active)) else []) ∧
        t.banks.withdrawn = s.banks.withdrawn ∧
        t.cfg = { active := if p.includeConfig then s.cfg.staged else s.cfg.active,
                  staged := s.cfg.staged,
                  saved := if p.guardFrames = 0 then s.cfg.saved else some s.cfg.active,
                  frozen := if p.includeConfig then false else s.cfg.frozen } ∧
        (∀ k : Fin 4, t.sig.checkers[k.val] =
          { s.sig.checkers[k.val] with count := 0, running := t.sig.checkers[k.val].running }) ∧
        t.commit = { s.commit with
          state := if p.guardFrames = 0 then .idle else .guarding,
          pendingCommit := none,
          guardedSet := if p.guardFrames = 0 then s.commit.guardedSet else some p.handles,
          guardCounter := if p.guardFrames = 0 then s.commit.guardCounter else p.guardFrames,
          lastApplied := true } ∧
        t.events.latched.getLsbD 4 = true)

/-- R38, R98: a waiting rollback at a frame boundary; an overrun start applies nothing. -/
def Obligations.RollbackAppliedAtBoundary : Prop :=
  ∀ (s : State) (frame width height : Half) (set : HandleSet) (saved : Configuration), s.resetHeld = false →
    fieldsInRange (.fs frame width height) = true → s.commit.state = .rollbackPending →
    s.commit.guardedSet = some set → s.cfg.saved = some saved →
    ∃ t, exec (.fs frame width height) s = .next t ∧
      (s.rx.state = .frame → t.banks = s.banks ∧ t.cfg = s.cfg ∧ t.commit = s.commit) ∧
      (s.rx.state ≠ .frame →
      (let touched (h : Handle) : Bool := (s.banks.record h).retained.isSome || set.has h
      (∀ h : Handle, t.banks.record h =
        if touched h then { s.banks.record h with active := (s.banks.record h).retained, retained := none }
        else s.banks.record h) ∧
      t.banks.free = s.banks.free ++ freedBanks (sidesOf s.banks touched (·.active)) ∧
      t.banks.quarantine = s.banks.quarantine ++ quarantinedBanks (sidesOf s.banks touched (·.active))) ∧
      t.banks.withdrawn = s.banks.withdrawn ∧
      t.cfg = { active := saved, staged := saved, saved := none, frozen := false } ∧
      (∀ k : Fin 4, t.sig.checkers[k.val] =
        { s.sig.checkers[k.val] with count := 0, running := t.sig.checkers[k.val].running }) ∧
      t.commit = { s.commit with state := .idle, guardedSet := none, guardCounter := 0 } ∧
      t.events.latched.getLsbD 6 = true ∧ t.events.latched.getLsbD 4 = s.events.latched.getLsbD 4)

/-- R3, R5, R21, R106, R116, R127: a frame line in BYPASS or FALLBACK is forwarded as it arrived, and its pixels are fed to
the signatures at both taps. -/
def Obligations.FrameLineForwardedUnchanged : Prop :=
  ∀ (s : State) (line : Half) (pixels : List Word), s.resetHeld = false → s.rx.state = .frame → s.pix.mode ≠ .active →
    fieldsInRange (.ln line pixels) = true →
    ∃ sig, SignaturesFed s line.toNat (pixels.map tripleOfWord) (pixels.map tripleOfWord) sig ∧
      exec (.ln line pixels) s = .next (({ s with
          rx := { s.rx with timer := some s.rx.setting, linesTaken := min (s.rx.linesTaken + 1) 4096,
                            broken := s.rx.broken || decide (line.toNat ≠ s.rx.linesTaken) ||
                              decide (pixels.length ≠ s.rx.width.toNat) },
          sig := sig }.sentDown (encodePacket (.ln line pixels))).reportEvents)

/-- R4, R6, R7, R20, R21, R106, R116, R127: a frame line in ACTIVE leaves re-encoded with the transformed pixels. The
lookups change the handle records and the read number (log 6); no word is written. When a stage was faulty, BANK_FAULT is
raised in the claim of the first faulty stage, and an EV then due has the handle marks of that moment (R157; log 12). -/
def Obligations.FrameLineTransformed : Prop :=
  ∀ (s : State) (line : Half) (pixels : List Word), s.resetHeld = false → s.rx.state = .frame → s.pix.mode = .active →
    fieldsInRange (.ln line pixels) = true →
    ∃ out look sig, transformFrom Config.readDisturbance s.mem s.cfg.active line.toNat 0 ⟨s.reads, s.banks.handles, none⟩
        (pixels.map tripleOfWord) = (out, look) ∧
      out.length = pixels.length ∧ (∀ w ∈ out.map wordOfTriple, w.extractLsb' 30 2 = 0) ∧
      (look.firstFault = none → look.handles = s.banks.handles) ∧
      SignaturesFed s line.toNat (pixels.map tripleOfWord) out sig ∧
      let taken : State := { s with
        rx := { s.rx with timer := some s.rx.setting, linesTaken := min (s.rx.linesTaken + 1) 4096,
                          broken := s.rx.broken || decide (line.toNat ≠ s.rx.linesTaken) ||
                            decide (pixels.length ≠ s.rx.width.toNat) },
        reads := look.reads }
      let noticed : State := match look.firstFault with
        | none => taken
        | some handles => ({ taken with banks := { s.banks with handles := handles } }.latch 0x200).reportEvents
      exec (.ln line pixels) s = .next ({ noticed with
          banks := { s.banks with handles := look.handles }, sig := sig }.sentDown
        (encodePacket (.ln line (out.map wordOfTriple)))).reportEvents

/-- R12: the chain of a pixel is that of the lowest-numbered enabled region that contains it, else chain 0. R4, R13, R18:
whatever reads of other pixels were faulty, a pixel whose own reads were sound gives what it gives alone: the pixel of
position `x + j` comes from that pixel, its position and the tables. (Reads are numbered in their order, log 6.) -/
def Obligations.PixelsTransformedByPosition : Prop :=
  (∀ (c : Configuration) (x y : Nat),
    let takes (k : Fin 6) : Prop := c.regions[k.val].enabled = true ∧ c.regions[k.val].rect.x0.toNat ≤ x ∧
      x ≤ c.regions[k.val].rect.x1.toNat ∧ c.regions[k.val].rect.y0.toNat ≤ y ∧ y ≤ c.regions[k.val].rect.y1.toNat
    (∀ k, takes k → (∀ j < k, ¬ takes j) → selectChain c x y = c.regions[k.val].chain) ∧
    ((∀ k, ¬ takes k) → selectChain c x y = 0)) ∧
  ∀ (disturb : Nat → Option Triple) (m : Memory) (c : Configuration) (y x : Nat) (look : Lookup) (pixels : List Triple)
      (j : Nat) (px : Triple), m.Sound → pixels[j]? = some px →
    let readsBefore (k : Nat) : Nat := (transformFrom disturb m c y x look (pixels.take k)).2.reads
    (∀ n, readsBefore j ≤ n → n < readsBefore (j + 1) → disturb n = none) →
    (transformFrom disturb m c y x look pixels).1[j]? =
      some (c.chains[(selectChain c (x + j) y).val].foldl
        (fun acc st => (runStage (fun _ => none) m (look.handles[st.handle.val]).active st acc 0).out) px)

/-- R14, R15, R16, R17: what each kind of stage gives when every read is sound. -/
def Obligations.StageResults : Prop :=
  ∀ (m : Memory) (bank : Bank) (px : Triple) (n : Nat), m.Sound →
    let word (i : Comp) : Triple := (m.at (wordAddr bank i)).values
    (∀ mask : Byte, (runCurve (fun _ => none) m bank mask px n).out =
      ⟨if mask.getLsbD 0 then (word px.c0).c0 else px.c0, if mask.getLsbD 1 then (word px.c1).c1 else px.c1,
       if mask.getLsbD 2 then (word px.c2).c2 else px.c2⟩) ∧
    (runPalette (fun _ => none) m bank 0 px n).out = word px.c0 ∧
    (runPalette (fun _ => none) m bank 1 px n).out = word px.c1 ∧
    (runPalette (fun _ => none) m bank 2 px n).out = word px.c2 ∧
    ∀ keyCount : Nat, (searchKeys (fun _ => none) m bank px 0 n keyCount).out =
      match (List.range keyCount).find? (fun k =>
          let key := KeyControl.ofTriple (word (keyWord k 3))
          key.valid && (key.matchesAll || key.within (word (keyWord k 0)) (word (keyWord k 1)) px)) with
      | none => px
      | some k => if (KeyControl.ofTriple (word (keyWord k 3))).pass then px else word (keyWord k 2)

/-- R18: a stage meets a fault exactly when one of its reads is faulty: a CURVE any of those of its masked components, a
PALETTE its one, a KEY one of its search (KeySearchFaulty); it then outputs its input. R19, R20: each faulty stage of each
pixel is recorded on its handle: the lookup fault count rises by 1, stopping at 255, the active side is marked, and nothing
else changes. Reads are numbered in the order they are made (log 6, log 27). -/
def Obligations.FaultyStageStepsAside : Prop :=
  (∀ (disturb : Nat → Option Triple) (m : Memory) (side : Side) (st : Stage) (px : Triple) (n : Nat),
    let r := runStage disturb m (some side) st px n
    let bad := FaultyRead disturb m side.bank
    let read (k : Nat) : Nat := if st.option.getLsbD k then 1 else 0
    (r.faulty = true → r.out = px) ∧
    (st.kind = .curve → (r.faulty = true ↔
      (st.option.getLsbD 0 = true ∧ bad n px.c0) ∨ (st.option.getLsbD 1 = true ∧ bad (n + read 0) px.c1) ∨
        (st.option.getLsbD 2 = true ∧ bad (n + read 0 + read 1) px.c2)) ∧ r.next = n + read 0 + read 1 + read 2) ∧
    (st.kind = .palette →
      (r.faulty = true ↔ bad n (if st.option = 0 then px.c0 else if st.option = 1 then px.c1 else px.c2)) ∧ r.next = n + 1) ∧
    (st.kind = .key → (r.faulty = true ↔ KeySearchFaulty disturb m side.bank px n side.keyCount) ∧ n ≤ r.next)) ∧
  ∀ (disturb : Nat → Option Triple) (m : Memory) (c : Configuration) (x y : Nat) (look : Lookup) (px : Triple),
    (∀ (st : Stage) (rest : List Stage),
      let r := runStage disturb m (look.handles[st.handle.val]).active st px look.reads
      ∃ next : Lookup, runChain disturb m px look (st :: rest) = runChain disturb m r.out next rest ∧
        (r.faulty = false → next = { look with reads := r.next }) ∧
        (r.faulty = true → next.reads = r.next ∧ next.firstFault = some (look.firstFault.getD next.handles) ∧
          ∀ h : Handle, next.handles[h.val] =
            if h = st.handle then
              { look.handles[h.val] with
                faultCount := if (look.handles[h.val]).faultCount = 255 then 255 else (look.handles[h.val]).faultCount + 1,
                active := (look.handles[h.val]).active.map fun side => { side with mark := true } }
            else look.handles[h.val])) ∧
    runChain disturb m px look [] = (px, look) ∧
    transformFrom disturb m c y x look [] = ([], look) ∧
    ∀ rest : List Triple,
      let r := runChain disturb m px look c.chains[(selectChain c x y).val]
      transformFrom disturb m c y x look (px :: rest) =
        (r.1 :: (transformFrom disturb m c y (x + 1) r.2 rest).1, (transformFrom disturb m c y (x + 1) r.2 rest).2)

/-- R129, R130, R134, R135: LN and FE outside FRAME. (That an FE forwarded in HUNT makes an announcement due is read from
R135, log 13.) -/
def Obligations.LinesAndEndsOutsideFrame : Prop :=
  ∀ (s : State), s.resetHeld = false →
    (∀ line pixels, fieldsInRange (.ln line pixels) = true →
      (s.rx.state = .blank → exec (.ln line pixels) s = .next (({ s with rx := { s.rx with
          state := .hunt, timer := some s.rx.setting, linkErrors := saturate16 s.rx.linkErrors } }.latch 0x001).sentDown
        (encodePacket (.ln line pixels))).reportEvents) ∧
      (s.rx.state = .hunt ∨ s.rx.state = .noSignal →
        exec (.ln line pixels) s = .next (s.seen.sentDown (encodePacket (.ln line pixels))).reportEvents)) ∧
    ∀ sent, fieldsInRange (.fe sent) = true →
      (s.rx.state = .blank → exec (.fe sent) s = .next ({ (({ s with rx := { s.rx with
          state := .hunt, timer := some s.rx.setting, linkErrors := saturate16 s.rx.linkErrors } }.latch 0x001).sentDown
        (encodePacket (.fe sent))) with creditDue := true }).reportEvents) ∧
      (s.rx.state = .hunt ∨ s.rx.state = .noSignal →
        exec (.fe sent) s = .next ({ s.seen.sentDown (encodePacket (.fe sent)) with creditDue := true }).reportEvents)

/-- R107, R128: the frame end. A frame that is broken, or not processed in ACTIVE, changes no checker, no pending mode and
nothing in the commit unit. (That the declared size, lines taken, frame-broken flag and running
signatures of the ended frame keep their values is the model's choice, log 39.) -/
def Obligations.FrameEndJudgesFrame : Prop :=
  ∀ (s : State) (sent : Half), s.resetHeld = false → s.rx.state = .frame → fieldsInRange (.fe sent) = true →
    let clean := !s.rx.broken && decide (s.rx.linesTaken = s.rx.height.toNat) && decide (sent = s.rx.height)
    ∃ t, exec (.fe sent) s = .next t ∧
      t.rx = { s.rx with state := .blank, timer := some s.rx.setting,
                         brokenFrames := if clean then s.rx.brokenFrames else saturate16 s.rx.brokenFrames } ∧
      t.downOut = s.downOut ++ [⟨encodePacket (.fe sent), true⟩] ∧ t.downHanded = s.downHanded + 1 ∧ t.creditDue = true ∧
      t.events.latched.getLsbD 1 = (s.events.latched.getLsbD 1 || !clean) ∧
      (clean = false ∨ s.pix.mode ≠ .active →
        t.pix = s.pix ∧ t.commit = s.commit ∧ t.sig = { s.sig with capture := t.sig.capture } ∧
        t.events.latched.getLsbD 7 = s.events.latched.getLsbD 7) ∧
      ((∀ r signature, s.sig.capture ≠ .running r signature) → t.sig.capture = s.sig.capture) ∧
      t.events.latched &&& ~~~0x082 = s.events.latched &&& ~~~0x082 ∧ FrameKeeps s t ∧
      t.pix.mode = s.pix.mode ∧ t.banks = s.banks ∧ t.cfg = s.cfg ∧ t.commit = { s.commit with handed := t.commit.handed }

/-- R107, R108, R109, R110: the evaluation at the FE of a clean ACTIVE frame. (That the running signatures keep their
values after it is the model's choice, log 39.) -/
def Obligations.WindowsEvaluatedAtCleanActiveEnd : Prop :=
  ∀ (s : State), s.resetHeld = false → s.rx.state = .frame → s.rx.broken = false → s.rx.linesTaken = s.rx.height.toNat →
    fieldsInRange (.fe s.rx.height) = true → s.pix.mode = .active →
    ∃ t, exec (.fe s.rx.height) s = .next t ∧ ∀ k : Fin 4,
      let w := s.cfg.active.windows[k.val]
      let c := s.sig.checkers[k.val]
      let fits := w.rect.x1.toNat + 1 ≤ s.rx.width.toNat ∧ w.rect.y1.toNat + 1 ≤ s.rx.height.toNat
      let mismatch := w.mode = .check ∧ fits ∧ c.running ≠ w.expected
      (w.mode = .off → t.sig.checkers[k.val] = c) ∧
      (w.mode = .check → ¬ fits → t.sig.checkers[k.val] = { c with skipped := saturate16 c.skipped }) ∧
      (w.mode = .check → fits → c.running = w.expected → t.sig.checkers[k.val] =
        { c with count := 0, matched := saturate16 c.matched, lastSignature := some c.running }) ∧
      (mismatch → t.sig.checkers[k.val] =
        { c with count := if c.count = 15 then 15 else c.count + 1, mismatched := saturate16 c.mismatched,
                 lastSignature := some c.running } ∧ t.events.latched.getLsbD 7 = true) ∧
      (t.sig.mismatchSet.getLsbD k.val = true ↔ mismatch) ∧
      (t.sig.mismatchSet = 0 → t.events.latched.getLsbD 7 = s.events.latched.getLsbD 7)

/-- R92, R94, R111, R112: the fallback request and the guard outcome of an evaluation. (That the outcome joins a list of those
not yet taken, at its end, is log 25.) -/
def Obligations.ThresholdsAndGuardOutcome : Prop :=
  ∀ (s : State), s.resetHeld = false → s.rx.state = .frame → s.rx.broken = false → s.rx.linesTaken = s.rx.height.toNat →
    fieldsInRange (.fe s.rx.height) = true → s.pix.mode = .active →
    let fits (k : Fin 4) : Prop := s.cfg.active.windows[k.val].rect.x1.toNat + 1 ≤ s.rx.width.toNat ∧
      s.cfg.active.windows[k.val].rect.y1.toNat + 1 ≤ s.rx.height.toNat
    let checked (k : Fin 4) : Prop := s.cfg.active.windows[k.val].mode = .check
    let mismatch (k : Fin 4) : Prop := checked k ∧ fits k ∧
      s.sig.checkers[k.val].running ≠ s.cfg.active.windows[k.val].expected
    let skipped (k : Fin 4) : Prop := checked k ∧ ¬ fits k
    let member (k : Fin 4) : Prop := s.cfg.active.windows[k.val].guardMember = true
    let qualifies (k : Fin 4) : Prop := mismatch k ∧ s.cfg.active.windows[k.val].action = .fallback ∧
      s.cfg.active.windows[k.val].threshold.toNat ≤ min 15 (s.sig.checkers[k.val].count.toNat + 1) ∧
      ¬ (s.commit.state = .guarding ∧ member k)
    ∃ t, exec (.fe s.rx.height) s = .next t ∧
      ((∃ k, qualifies k) → t.pix = { s.pix with pendingMode := some .fallback }) ∧
      ((∀ k, ¬ qualifies k) → t.pix = s.pix) ∧
      (s.commit.state ≠ .guarding → t.commit = s.commit) ∧
      (s.commit.state = .guarding → ∃ o, t.commit = { s.commit with handed := s.commit.handed ++ [o] } ∧
        ((∃ k, member k ∧ mismatch k) → o = .failed) ∧
        ((∀ k, ¬ (member k ∧ mismatch k)) → (∃ k, member k ∧ skipped k) → o = .notCounted) ∧
        ((∀ k, ¬ (member k ∧ (mismatch k ∨ skipped k))) → o = .counted))

/-- R117, R118, R178: the frame of a RUNNING capture ends by an FE, by an overrun start, or by signal loss. The reply joins
the own queue behind what stood there, and behind the EV that the evaluation of a clean ACTIVE frame may queue first
(log 38). -/
def Obligations.CaptureAttemptEnds : Prop :=
  ∀ (s : State) (r : CaptureRecord) (signature : Word), s.resetHeld = false → s.rx.state = .frame →
    s.sig.capture = .running r signature →
    let fits := r.rect.x1.toNat + 1 ≤ s.rx.width.toNat ∧ r.rect.y1.toNat + 1 ≤ s.rx.height.toNat
    let behind (t : State) (first : List OwnMessage) (status : Status) (payload : List Byte) : Prop :=
      t.sig.capture = .idle ∧ s.ret.own ++ first ++ [.reply ⟨s.address, r.tag, r.code, status, payload⟩] <+: t.ret.own
    let gaveUp (t : State) : Prop := behind t [] .noCleanFrame ([0, natByte (r.attempts + 1)] ++ zeros 20)
    (∀ sent, fieldsInRange (.fe sent) = true → ∃ t, exec (.fe sent) s = .next t ∧
      let clean := !s.rx.broken && decide (s.rx.linesTaken = s.rx.height.toNat) && decide (sent = s.rx.height)
      let answers (t : State) (status : Status) (payload : List Byte) : Prop :=
        behind t [] status payload ∨ (clean = true ∧ s.pix.mode = .active ∧ ∃ e, behind t [.event e] status payload)
      (¬ fits → answers t .outside (zeros 14 ++ bytes16 s.rx.width ++ bytes16 s.rx.height ++ zeros 4)) ∧
      (fits → clean = true → answers t .ok ([r.point.byte, 0] ++ r.rect.bytes ++ bytes16 s.rx.lastFrame ++
        [s.pix.mode.byte, 0] ++ zeros 4 ++ bytes32 signature)) ∧
      (fits → clean = false → r.attempts + 1 < 4 → t.sig.capture = .armed { r with attempts := r.attempts + 1 }) ∧
      (fits → clean = false → 4 ≤ r.attempts + 1 → gaveUp t)) ∧
    (∀ f width height, fieldsInRange (.fs f width height) = true → ∃ t, exec (.fs f width height) s = .next t ∧
      (r.attempts + 1 < 4 → t.sig.capture = .running { r with attempts := r.attempts + 1 } 0xFFFFFFFF) ∧
      (4 ≤ r.attempts + 1 → gaveUp t)) ∧
    (s.rx.timer ≠ none → ∃ t, exec .signalLossExpiry s = .next t ∧
      (r.attempts + 1 < 4 → t.sig.capture = .armed { r with attempts := r.attempts + 1 }) ∧
      (4 ≤ r.attempts + 1 → gaveUp t))

/-- R131, R132: the signal-loss timer expires; in NO_SIGNAL it does not. (That the declared size, lines taken,
frame-broken flag and running signatures of the ended frame keep their values is the model's choice, log 39.) -/
def Obligations.SignalLossEndsTracking : Prop :=
  ∀ s : State, s.resetHeld = false →
    (s.rx.state = .noSignal → exec .signalLossExpiry s = .next s) ∧
    (s.rx.timer ≠ none → s.rx.state = .hunt ∨ s.rx.state = .blank → exec .signalLossExpiry s =
      .next ({ s with rx := { s.rx with state := .noSignal, timer := none } }.latch 0x004).reportEvents) ∧
    (s.rx.timer ≠ none → s.rx.state = .frame → ∃ t, exec .signalLossExpiry s = .next t ∧
      t.rx = { s.rx with state := .noSignal, timer := none, brokenFrames := saturate16 s.rx.brokenFrames } ∧
      t.events.latched = s.events.latched ||| 0x006 ∧ t.pix = s.pix ∧ t.commit = s.commit ∧ t.cfg = s.cfg ∧
      t.banks = s.banks ∧ t.downOut = s.downOut ∧ t.creditDue = s.creditDue ∧ FrameKeeps s t ∧
      t.sig = { s.sig with capture := t.sig.capture } ∧
      ((∀ r signature, s.sig.capture ≠ .running r signature) → t.sig.capture = s.sig.capture))

/-- R139, R169 and Table 10.2-1: a good CM. -/
def Obligations.CommandPacketMatched : Prop :=
  ∀ (s : State) (dest tag code : Byte) (payload : List Byte), s.resetHeld = false → payload.length ≤ 136 →
    let d := dest.extractLsb' 0 6
    let offered := if d = 63 ∨ d = s.address then
        (if s.cmd.queue.length < 8 then
          { s.seen with cmd := { s.cmd with queue := s.cmd.queue ++ [⟨dest, tag, code, payload⟩] } }
        else { s.seen with cmd := { s.cmd with dropped := saturate16 s.cmd.dropped } }.latch 0x400)
      else s.seen
    exec (.cm dest tag code payload) s = .next (if d = 63 ∨ d ≠ s.address
      then offered.sentDown (encodePacket (.cm ⟨dest, tag, code, payload⟩)) else offered).reportEvents

/-- R134, R163: a good CR is consumed and judged; R135: a due announcement is sent as a CR with the down-grant total, and
cleared; R134, R176: a good FILL is forwarded as the three bytes 00h, E1h, F0h. -/
def Obligations.CreditAndFillPackets : Prop :=
  ∀ (s : State), s.resetHeld = false →
    (∀ total : Byte, exec (.cr total) s = .next (if (total - s.ret.upSent).toNat ≤ 16
      then { s.seen with ret := { s.ret with upGrant := total } }
      else { s.seen with rx := { s.rx.seen with linkErrors := saturate16 s.rx.linkErrors } }.latch 0x001).reportEvents) ∧
    (s.creditDue = true → exec .creditAnnouncement s =
      .next ({ s with creditDue := false }.sentDown (encodePacket (.cr s.ret.downGrant))).reportEvents) ∧
    exec .fill s = .next (s.seen.sentDown [0x00, 0xE1, 0xF0]).reportEvents

/-! ### The return lane -/

/-- R160: a packet on the downstream return lane. A packet of FILL kind that is not of 3 bytes is a message of unknown
kind (log 24). -/
def Obligations.ReturnPacketRelayedOrConsumed : Prop :=
  ∀ (s : State) (bytes : List Byte), s.resetHeld = false →
    let counted (s : State) : State := { s with rx := { s.rx with linkErrors := saturate16 s.rx.linkErrors } }.latch 0x001
    let taken := { s with ret := { s.ret with
      pass := s.ret.pass ++ [bytes], downReceived := s.ret.downReceived + 1 } }
    let message := (bytes.head? = some 0x40 ∧ 8 ≤ bytes.length ∧ bytes.length ≤ 88) ∨
      (bytes.head? = some 0x41 ∧ bytes.length = 22)
    exec (.returnPacket bytes) s = .next (State.reportEvents (
      if bytes.length = 3 then
        (if crcCorrect bytes = true ∧ bytes.head? = some 0x00 then s else counted s)
      else if (s.ret.downGrant - s.ret.downReceived).toNat = 0 then counted s
      else if crcCorrect bytes = true ∧ message then taken
      else counted taken))

/-- Tables 11.3-1, 11.7-4, 11.7-5, 11.8-1: the bytes of the part's own messages. R165: a message is begun, by alternation
when both queues hold messages, and none without its conditions; the idle lane carries return FILL; R138, R155, R162, R165,
R166: the end of a message's sending. -/
def Obligations.MessagesBegunAndSent : Prop :=
  (let withCheck (content : List Byte) : List Byte := content ++ bytes16 (crc16 content)
   let high (x : Half) : Byte := x.extractLsb' 8 8
   let low (x : Half) : Byte := x.extractLsb' 0 8
   (∀ r : Reply, r.packet = withCheck
      ([0x40, r.source.setWidth 8, r.tag, r.code, r.status.byte, BitVec.ofNat 8 r.payload.length] ++ r.payload)) ∧
   (∀ e : EventMessage,
      let kinds : Half := e.kinds.setWidth 16
      let frame : Half := if e.boundarySeen then e.lastBoundary else 0
      e.packet = withCheck [0x41, e.source.setWidth 8, high kinds, low kinds, e.mode.byte, e.receiver.byte, e.commit.byte,
        if e.boundarySeen then 1 else 0, high frame, low frame, BitVec.ofNat 8 e.freeLength, e.mismatchSet.setWidth 8,
        high e.markedHandles, low e.markedHandles, high e.dropped, low e.dropped, high e.linkErrors, low e.linkErrors,
        high e.brokenFrames, low e.brokenFrames]) ∧
   [Status.ok, .duplicate, .unknownCommand, .badLength, .badArgument, .badHandle, .wrongState, .busy, .noBank, .sequence,
      .mismatch, .fault, .pending, .guardActive, .unbound, .targetPast, .inUse, .late, .aborted, .noCleanFrame,
      .outside].map Status.byte =
     [0x00, 0x01, 0x10, 0x11, 0x12, 0x13, 0x20, 0x21, 0x22, 0x23, 0x24, 0x25, 0x30, 0x31, 0x32, 0x33, 0x34, 0x35, 0x40,
      0x41, 0x42] ∧
   [Mode.bypass, .active, .fallback].map Mode.byte = [0, 1, 2] ∧
   [ReceiverState.noSignal, .hunt, .frame, .blank].map ReceiverState.byte = [0, 1, 2, 3] ∧
   [CommitState.idle, .pending, .guarding, .rollbackPending].map CommitState.byte = [0, 1, 2, 3] ∧
   [StagedState.none, .filling, .copying, .opened, .checking, .loaded, .committing].map StagedState.byte =
     [0, 1, 2, 3, 4, 5, 6]) ∧
  ∀ s : State, s.resetHeld = false →
    (s.ret.sending = none → s.returnLane = some [0x00, 0xE1, 0xF0]) ∧
    (s.ret.sending ≠ none ∨ s.ret.upGrant - s.ret.upSent = 0 ∨ (s.ret.own = [] ∧ s.ret.pass = []) →
      exec .messageBegun s = .next s) ∧
    (s.ret.sending = none → exec .messageSent s = .next s) ∧
    (s.ret.sending = none → s.ret.upGrant - s.ret.upSent ≠ 0 →
      (s.ret.own ≠ [] → s.ret.pass = [] ∨ s.ret.lastServed = .pass → exec .messageBegun s = .next
        { s with ret := { s.ret with upSent := s.ret.upSent + 1, lastServed := .own, sending := some .own } }.reportEvents) ∧
      (s.ret.pass ≠ [] → s.ret.own = [] ∨ s.ret.lastServed = .own → exec .messageBegun s = .next
        { s with ret := { s.ret with upSent := s.ret.upSent + 1, lastServed := .pass, sending := some .pass }
        }.reportEvents)) ∧
    (∀ r rest, s.ret.sending = some .own → s.ret.own = .reply r :: rest → exec .messageSent s = .next
      ({ s with ret := { s.ret with own := rest, sending := none }, cmd := { s.cmd with slots := s.cmd.slots - 1 }
        }.sentUp r.packet).reportEvents) ∧
    (∀ e rest, s.ret.sending = some .own → s.ret.own = .event e :: rest → exec .messageSent s = .next
      ({ s with ret := { s.ret with own := rest, sending := none } }.sentUp e.packet).reportEvents) ∧
    (∀ m rest, s.ret.sending = some .pass → s.ret.pass = m :: rest → exec .messageSent s = .next
      ({ s with ret := { s.ret with pass := rest, sending := none, downGrant := s.ret.downGrant + 1 }, creditDue := true
        }.sentUp m).reportEvents) ∧
    (∀ bytes, s.ret.sending = some (.uncounted bytes) → exec .messageSent s = .next
      ({ s with ret := { s.ret with sending := none } }.sentUp bytes).reportEvents)

/-- R157, R172: when an unmasked, unreported kind is latched and the EV slot is free, the EV joins the own queue with its
snapshot, and every kind it carries becomes reported; when not, nothing. No step leaves an EV due that was not due before
it. R125: at a frame boundary the lane receiver, the pixel path and the commit unit act in their own claims, in that order
(log 38), and the test is made in each (log 12): what an EV queued in the commit unit's claim carries is that of the next
state, since the signature unit's claim changes nothing that an EV shows. -/
def Obligations.EventQueuedWithSnapshot : Prop :=
  let due (s : State) : Prop := s.events.latched &&& ~~~s.events.masked &&& ~~~s.events.reported ≠ 0 ∧
    ∀ m ∈ s.ret.own, m.isEvent = false
  (∀ s : State,
    let queued : State := { s with
      ret := { s.ret with own := s.ret.own ++ [.event {
        source := s.address, kinds := s.events.latched, mode := s.pix.mode, receiver := s.rx.state,
        commit := s.commit.state, boundarySeen := s.rx.boundarySeen, lastBoundary := s.rx.lastBoundary,
        freeLength := s.banks.free.length, mismatchSet := s.sig.mismatchSet, markedHandles := s.banks.markedHandles,
        dropped := s.cmd.dropped, linkErrors := s.rx.linkErrors, brokenFrames := s.rx.brokenFrames }] },
      events := { s.events with reported := s.events.reported ||| s.events.latched } }
    (due s → s.reportEvents = queued ∧ (s.resetHeld = false → exec .evQueued s = .next queued)) ∧
    (¬ due s → s.reportEvents = s ∧ exec .evQueued s = .next s) ∧
    ∀ h : Handle, s.banks.markedHandles.getLsbD (h.val + 1) = true ↔ ∃ side : Side, side.mark = true ∧
      (s.banks.handles[h.val].active = some side ∨ s.banks.handles[h.val].staged = some side ∨
        s.banks.handles[h.val].retained = some side)) ∧
  (∀ s t : State, step s = .next t → ¬ due s → ¬ due t) ∧
  ∀ (s : State) (frame width height : Half), s.resetHeld = false → s.rx.state ≠ .frame →
    fieldsInRange (.fs frame width height) = true →
    let received : State := ({ s with rx := { s.rx with
        state := .frame, boundarySeen := true, lastFrame := frame, lastBoundary := frame, width := width, height := height,
        linesTaken := 0, broken := false, timer := some s.rx.setting } }.latch s.rx.foundKinds).reportEvents
    let switched : State := (match s.pix.pendingMode with
      | none => received
      | some m => { received with pix := ⟨m, none⟩ }.latch (if m = Mode.fallback then 0x100 else 0)).reportEvents
    ∃ t, exec (.fs frame width height) s = .next t ∧
      (let applied : State := { t with
          ret := switched.ret, events := { t.events with reported := switched.events.reported } }
       t.ret = applied.reportEvents.ret ∧ t.events = applied.reportEvents.events) ∧
      (s.commit.state = .idle ∨ s.commit.state = .guarding → t.ret.own = switched.ret.own ∧ t.events = switched.events) ∧
      (t.events.latched &&& ~~~0x050 = switched.events.latched &&& ~~~0x050)

/-! ### The ends of jobs -/

/-- R46, R48, R55: a FILL ends. -/
def Obligations.FillEndOpensHandle : Prop :=
  ∀ (s : State) (h : Handle) (tag code : Byte) (rest : List Job) (side : Side), s.resetHeld = false → s.mem.wf →
    s.jobs = ⟨.fill h, tag, code⟩ :: rest → (s.banks.record h).staged = some side →
    ∃ m, (∀ i, Memory.at m (wordAddr side.bank i) = ⟨⟨0, 0, 0⟩, parityOf ⟨0, 0, 0⟩⟩) ∧
      (∀ b i, b ≠ side.bank → Memory.at m (wordAddr b i) = s.word b i) ∧
      exec .fillJobEnd s = .next (({ s with
          jobs := rest, mem := m,
          banks := s.banks.modify h fun r => { r with stagedState := .opened } }.withReply tag code .ok
        [handleByte h, bankByte side.bank, 0, 0, 0, 0]).reportEvents)

/-- R46, R49, R50, R55: a COPY ends OK when every read is sound, else at its first fault: of source word `i`, or of the
read-back of word `i`. Reads are numbered from `s.reads`, two for each word; a read that R22 lets fault is marked by
Config.readDisturbance (log 6). -/
def Obligations.CopyEndOpensOrGivesUpHandle : Prop :=
  ∀ (s : State) (h : Handle) (source : Bank) (keyCount : Nat) (tag code : Byte) (rest : List Job) (side : Side),
    s.resetHeld = false → s.mem.wf → s.jobs = ⟨.copy h source keyCount, tag, code⟩ :: rest →
    (s.banks.record h).staged = some side → source ≠ side.bank → side.mark = false →
    let badSource (i : Nat) : Prop :=
      (readWord Config.readDisturbance s.mem (s.reads + 2 * i) source (BitVec.ofNat 10 i)).faulty = true
    let badCopy (i : Nat) : Prop := Config.readDisturbance (s.reads + 2 * i + 1) ≠ none
    ∃ m, (∀ b i, b ≠ side.bank → Memory.at m (wordAddr b i) = s.word b i) ∧
      (((∀ i < 1024, ¬ badSource i ∧ ¬ badCopy i) ∧
        (∀ i, Memory.at m (wordAddr side.bank i) = ⟨(s.word source i).values, parityOf (s.word source i).values⟩) ∧
        exec .copyJobEnd s = .next (({ s with
            jobs := rest, mem := m, reads := s.reads + 2048,
            banks := s.banks.modify h fun r =>
              { r with staged := some ⟨side.bank, keyCount, side.mark⟩, stagedState := .opened } }.withReply tag code .ok
          [handleByte h, bankByte side.bank, 0, 0, 0, 0]).reportEvents)) ∨
      (∃ i < 1024, (∀ j < i, ¬ badSource j ∧ ¬ badCopy j) ∧ badSource i ∧ exec .copyJobEnd s = .next ((({ s with
            jobs := rest, mem := m, reads := s.reads + 2 * i + 1,
            banks := { (s.banks.modify h fun r => { r with
                active := r.active.map fun x : Side => if x.bank = source then { x with mark := true } else x,
                staged := none, stagedState := .none }) with free := s.banks.free ++ [side.bank] } }.latch 0x200).withReply
          tag code .fault ([handleByte h, bankByte source, 1, 0] ++ bytes16 (BitVec.ofNat 16 i))).reportEvents)) ∨
      (∃ i < 1024, (∀ j < i, ¬ badSource j ∧ ¬ badCopy j) ∧ ¬ badSource i ∧ badCopy i ∧
        exec .copyJobEnd s = .next ((({ s with
            jobs := rest, mem := m, reads := s.reads + 2 * i + 2,
            banks := { (s.banks.modify h fun r => { r with staged := none, stagedState := .none }) with
              quarantine := s.banks.quarantine ++ [side.bank] } }.latch 0x200).withReply
          tag code .fault ([handleByte h, bankByte side.bank, 2, 0] ++ bytes16 (BitVec.ofNat 16 i))).reportEvents)))

/-- R46, R52, R53, R55, R103, R104: a CHECK ends by a match or a mismatch of its CRC-32 when every read is sound, else at
its first fault; it writes no word. Reads are numbered from `s.reads` (log 6). -/
def Obligations.CheckEndJudgesBank : Prop :=
  ∀ (s : State) (h : Handle) (expected : Word) (keyCount : Nat) (tag code : Byte) (rest : List Job) (side : Side),
    s.resetHeld = false → s.jobs = ⟨.check h expected keyCount, tag, code⟩ :: rest →
    (s.banks.record h).staged = some side →
    let crc := crc32Triples 0xFFFFFFFF ((List.range 1024).map fun i => (s.word side.bank (BitVec.ofNat 10 i)).values)
    let bad (i : Nat) : Prop :=
      (readWord Config.readDisturbance s.mem (s.reads + i) side.bank (BitVec.ofNat 10 i)).faulty = true
    ((∀ i < 1024, ¬ bad i) ∧ crc = expected ∧ exec .checkJobEnd s = .next (({ s with
        jobs := rest, reads := s.reads + 1024,
        banks := s.banks.modify h fun r =>
          { r with staged := some { side with keyCount := keyCount }, stagedState := .loaded } }.withReply tag code .ok
      ([handleByte h, 0, 0, 0] ++ bytes32 crc)).reportEvents)) ∨
    ((∀ i < 1024, ¬ bad i) ∧ crc ≠ expected ∧ exec .checkJobEnd s = .next (({ s with
        jobs := rest, reads := s.reads + 1024,
        banks := s.banks.modify h fun r => { r with stagedState := .opened } }.withReply tag code .mismatch
      ([handleByte h, 0, 0, 0] ++ bytes32 crc)).reportEvents)) ∨
    (∃ i < 1024, (∀ j < i, ¬ bad j) ∧ bad i ∧ exec .checkJobEnd s = .next ((({ s with
        jobs := rest, reads := s.reads + i + 1,
        banks := { (s.banks.modify h fun r => { r with staged := none, stagedState := .none }) with
          quarantine := s.banks.quarantine ++ [side.bank] } }.latch 0x200).withReply tag code .fault
      ([handleByte h, bankByte side.bank] ++ bytes16 (BitVec.ofNat 16 i) ++ zeros 4)).reportEvents))

/-- R33, R34, R46, R54, R55: a SCRUB ends: the bank is written with zeros and joins the free list when every word reads
back sound, else the withdrawn set, at the first fault. Reads are numbered from `s.reads` (log 6). -/
def Obligations.ScrubEndReturnsOrWithdrawsBank : Prop :=
  ∀ (s : State) (bank : Bank) (tag code : Byte) (rest : List Job), s.resetHeld = false → s.mem.wf →
    s.jobs = ⟨.scrub bank, tag, code⟩ :: rest →
    let bad (i : Nat) : Prop := Config.readDisturbance (s.reads + i) ≠ none
    ∃ m, (∀ i, Memory.at m (wordAddr bank i) = ⟨⟨0, 0, 0⟩, parityOf ⟨0, 0, 0⟩⟩) ∧
      (∀ b i, b ≠ bank → Memory.at m (wordAddr b i) = s.word b i) ∧
      (((∀ i < 1024, ¬ bad i) ∧ exec .scrubJobEnd s = .next (({ s with
            jobs := rest, mem := m, reads := s.reads + 1024, banks := { s.banks with
              quarantine := s.banks.quarantine.erase bank, free := s.banks.free ++ [bank] } }.withReply tag code .ok
          [bankByte bank, 0, 0, 0]).reportEvents)) ∨
       ∃ i < 1024, (∀ j < i, ¬ bad j) ∧ bad i ∧ exec .scrubJobEnd s = .next ((({ s with
            jobs := rest, mem := m, reads := s.reads + i + 1, banks := { s.banks with
              quarantine := s.banks.quarantine.erase bank, withdrawn := s.banks.withdrawn ++ [bank] } }.latch 0x200).withReply
          tag code .fault ([bankByte bank, 0] ++ bytes16 (BitVec.ofNat 16 i))).reportEvents))

/-! ### Commands -/

/-- R141, R178: the common checks, in order, for every command. -/
def Obligations.CommonChecks : Prop :=
  ∀ (s : State) (c : CommandPacket), HeadReady s c →
    (c.code ≠ 0x21 → (∀ e ∈ fixedCommands, c.code ≠ e.1) →
      exec .unknownCommand s = .next (s.answered c .unknownCommand [])) ∧
    (∀ e ∈ fixedCommands, c.code = e.1 → c.payload.length ≠ e.2.2 → exec e.2.1 s = .next (s.answered c .badLength [])) ∧
    (c.code = 0x21 → (c.payload.length < 8 ∨ c.payload.length ≠ 8 + 4 * (byteAt c.payload 6).toNat) →
      exec .writeTable s = .next (s.answered c .badLength [])) ∧
    (((byteAt c.payload 0).toNat = 0 ∨ 10 < (byteAt c.payload 0).toNat) →
      (∀ e ∈ fixedCommands, e.2.1 ∈ [Instr.openTable, .closeTable, .discardTable, .releaseTable, .readTable] →
        c.code = e.1 → c.payload.length = e.2.2 → exec e.2.1 s = .next (s.answered c .badHandle [])) ∧
      (c.code = 0x21 → 8 ≤ c.payload.length → c.payload.length = 8 + 4 * (byteAt c.payload 6).toNat →
        exec .writeTable s = .next (s.answered c .badHandle [])))

/-- R31, R47, R56, R57: OPEN_TABLE, with a handle argument of 1-10. -/
def Obligations.OpenTableTakesFrontBank : Prop :=
  ∀ (s : State) (c : CommandPacket) (h : Handle) (mode : Byte), HeadReady s c → c.code = 0x20 →
    c.payload = [handleByte h, mode] →
    let r := s.banks.record h
    exec .openTable s = .next (
      if 1 < mode.toNat then s.answered c .badArgument (zeros 6)
      else if r.stagedState ≠ .none ∨ (mode = 1 ∧ r.active = none) then s.answered c .wrongState (zeros 6)
      else if 4 ≤ s.jobs.length then
        { s with cmd := { s.cmd with slots := s.cmd.slots + 1, waiting := true } }.reportEvents
      else match s.banks.free with
        | [] => s.answered c .noBank (zeros 6)
        | bank :: rest =>
            { s.headTaken with
              banks := { (s.banks.modify h fun r => { r with
                  staged := some ⟨bank, 0, false⟩, stagedState := if mode = 1 then .copying else .filling,
                  nextSeq := 0, writeAccepted := false }) with free := rest },
              jobs := s.jobs ++ [(⟨match decide (mode = 1), r.active with
                | true, some side => .copy h side.bank side.keyCount
                | _, _ => .fill h, c.tag, c.code⟩ : Job)] }.reportEvents)

/-- R58, R59: WRITE_TABLE, with a handle argument of 1-10 and a payload length that agrees with its word count. -/
def Obligations.WriteTableStoresNextRun : Prop :=
  ∀ (s : State) (c : CommandPacket) (h : Handle), HeadReady s c → c.code = 0x21 → 8 ≤ c.payload.length →
    c.payload.length = 8 + 4 * (byteAt c.payload 6).toNat → byteAt c.payload 0 = handleByte h → s.mem.wf →
    let r := s.banks.record h
    let start := (halfAt c.payload 4).toNat
    let count := (byteAt c.payload 6).toNat
    let sequence := halfAt c.payload 2
    (r.stagedState ≠ .opened → exec .writeTable s = .next (s.answered c .wrongState (zeros 4))) ∧
    ∀ side, r.stagedState = .opened → r.staged = some side →
      (count = 0 ∨ 32 < count ∨ 1024 < start + count → exec .writeTable s = .next (s.answered c .badArgument (zeros 4))) ∧
      (1 ≤ count → count ≤ 32 → start + count ≤ 1024 →
        (sequence = r.nextSeq → ∃ m,
          (∀ i < count, Memory.at m (wordAddr side.bank (BitVec.ofNat 10 (start + i))) =
            ⟨tripleOfWord (wordAt c.payload (8 + 4 * i)), parityOf (tripleOfWord (wordAt c.payload (8 + 4 * i)))⟩) ∧
          (∀ b (i : Comp), (b ≠ side.bank ∨ i.toNat < start ∨ start + count ≤ i.toNat) →
            Memory.at m (wordAddr b i) = s.word b i) ∧
          exec .writeTable s = .next ({ s with
              mem := m, banks := s.banks.modify h fun r => { r with nextSeq := r.nextSeq + 1, writeAccepted := true }
            }.answered c .ok ([handleByte h, 0] ++ bytes16 (r.nextSeq + 1)))) ∧
        (sequence + 1 = r.nextSeq → r.writeAccepted = true →
          exec .writeTable s = .next (s.answered c .duplicate ([0, 0] ++ bytes16 r.nextSeq))) ∧
        (sequence ≠ r.nextSeq → (sequence + 1 ≠ r.nextSeq ∨ r.writeAccepted = false) →
          exec .writeTable s = .next (s.answered c .sequence ([0, 0] ++ bytes16 r.nextSeq))))

/-- R47, R60, R63: CLOSE_TABLE, with a handle argument of 1-10, and SCRUB_BANK. -/
def Obligations.CloseAndScrubQueueJobs : Prop :=
  ∀ (s : State) (c : CommandPacket), HeadReady s c →
    let wait := { s with cmd := { s.cmd with slots := s.cmd.slots + 1, waiting := true } }.reportEvents
    (∀ h : Handle, c.code = 0x22 → c.payload.length = 8 → byteAt c.payload 0 = handleByte h →
      exec .closeTable s = .next (
        if (s.banks.record h).stagedState ≠ .opened then s.answered c .wrongState (zeros 8)
        else if 256 < (halfAt c.payload 2).toNat then s.answered c .badArgument (zeros 8)
        else if 4 ≤ s.jobs.length then wait
        else { s.headTaken with
          banks := s.banks.modify h fun r => { r with stagedState := .checking },
          jobs := s.jobs ++ [(⟨.check h (wordAt c.payload 4) (halfAt c.payload 2).toNat, c.tag, c.code⟩ : Job)] }.reportEvents)) ∧
    (∀ bank : Bank, c.code = 0x24 → c.payload = [bankByte bank] →
      exec .scrubBank s = .next (
        if bank ∉ s.banks.quarantine then s.answered c .wrongState (zeros 4)
        else if s.jobs.any (fun j => decide (j.work = .scrub bank)) then s.answered c .busy (zeros 4)
        else if 4 ≤ s.jobs.length then wait
        else { s.headTaken with jobs := s.jobs ++ [(⟨.scrub bank, c.tag, c.code⟩ : Job)] }.reportEvents)) ∧
    (∀ b : Byte, c.code = 0x24 → c.payload = [b] → 16 ≤ b.toNat →
      exec .scrubBank s = .next (s.answered c .badArgument (zeros 4)))

/-- R32, R61: DISCARD_TABLE, with a handle argument of 1-10. What an abandoned job had written is a free value (log 10);
the OK reply carries the handle (log 31). -/
def Obligations.DiscardTableGivesUpStagedSide : Prop :=
  ∀ (s : State) (c : CommandPacket) (h : Handle), HeadReady s c → c.code = 0x23 → c.payload = [handleByte h] →
    let r := s.banks.record h
    (r.stagedState = .none → exec .discardTable s = .next (s.answered c .wrongState [0])) ∧
    (r.stagedState = .committing → exec .discardTable s = .next (s.answered c .pending [0])) ∧
    ∀ side, r.staged = some side →
      let banks := { (s.banks.modify h fun r => { r with staged := none, stagedState := .none }) with
        free := s.banks.free ++ freedBanks [some side], quarantine := s.banks.quarantine ++ quarantinedBanks [some side] }
      (r.stagedState = .opened ∨ r.stagedState = .loaded →
        exec .discardTable s = .next ({ s with banks := banks }.answered c .ok [handleByte h])) ∧
      (r.stagedState ∈ [StagedState.filling, .copying, .checking] →
        ∀ before after job, s.jobs = before ++ job :: after → job.work.handle? = some h →
          (∀ j ∈ before ++ after, j.work.handle? ≠ some h) →
          ∃ m k, (∀ b i, b ≠ side.bank → Memory.at m (wordAddr b i) = s.word b i) ∧ (before ≠ [] → m = s.mem ∧ k = 0) ∧
            exec .discardTable s = .next (({ s with
                mem := m, abandons := s.abandons + k, jobs := before ++ after, banks := banks }.withReply job.tag job.code
              .aborted (match job.work with | .check _ _ _ => zeros 8 | _ => zeros 6)).answered c .ok [handleByte h]))

/-- R32, R39: RELEASE_TABLE, with a handle argument of 1-10. The OK reply carries the handle and the bank (log 31). -/
def Obligations.ReleaseTableGivesUpActiveSide : Prop :=
  ∀ (s : State) (c : CommandPacket) (h : Handle), HeadReady s c → c.code = 0x25 → c.payload = [handleByte h] →
    let r := s.banks.record h
    exec .releaseTable s = .next (match r.active with
      | none => s.answered c .wrongState [0, 0]
      | some side =>
          if r.stagedState = .committing then s.answered c .pending [0, 0]
          else if s.cfg.active.names h ∨ s.cfg.staged.names h ∨ s.cfg.saved.any (fun saved => saved.names h) ∨
              s.jobs.any (fun j => j.work.copies h) then s.answered c .inUse [0, 0]
          else { s with banks := { (s.banks.modify h fun r => { r with active := none }) with
              free := s.banks.free ++ freedBanks [some side],
              quarantine := s.banks.quarantine ++ quarantinedBanks [some side] } }.answered c .ok
            [handleByte h, bankByte side.bank])

/-- R35, R40, R41, R178: READ_TABLE, with a handle argument of 1-10. Each word is one read (R22, log 6), and the side is marked
and BANK_FAULT raised when any was faulty. A refusal too carries the lookup fault count (R19, log 32). -/
def Obligations.ReadTableReturnsWords : Prop :=
  ∀ (s : State) (c : CommandPacket) (h : Handle), HeadReady s c → c.code = 0x26 → c.payload.length = 5 →
    byteAt c.payload 0 = handleByte h →
    let r := s.banks.record h
    let start := (halfAt c.payload 2).toNat
    let count := (byteAt c.payload 4).toNat
    let refused := zeros 6 ++ [r.faultCount] ++ zeros 5
    (2 < (byteAt c.payload 1).toNat → exec .readTable s = .next (s.answered c .badArgument refused)) ∧
    ∀ name, byteAt c.payload 1 = SideName.byte name →
      (r.side name = none ∨ (name = .staged ∧ (r.stagedState = .filling ∨ r.stagedState = .copying)) →
        exec .readTable s = .next (s.answered c .wrongState refused)) ∧
      ∀ side, r.side name = some side → (name = .staged → r.stagedState ≠ .filling ∧ r.stagedState ≠ .copying) →
        (count = 0 ∨ 16 < count ∨ 1024 < start + count →
          exec .readTable s = .next (s.answered c .badArgument refused)) ∧
        (1 ≤ count → count ≤ 16 → start + count ≤ 1024 → ∃ words : List ReadResult,
          words = (List.range count).map (fun i =>
            readWord Config.readDisturbance s.mem (s.reads + i) side.bank (BitVec.ofNat 10 (start + i))) ∧
          let faulty := words.any ReadResult.faulty
          exec .readTable s = .next (({ s with
              reads := s.reads + count,
              banks := if faulty then s.banks.modify h fun r => r.markSide name else s.banks }.latch
              (if faulty then 0x200 else 0)).answered c .ok
            ([handleByte h, name.byte, bankByte side.bank, flagByte (side.mark || faulty)]
              ++ bytes16 (BitVec.ofNat 16 side.keyCount) ++ [r.faultCount, 0] ++ bytes16 (BitVec.ofNat 16 start)
              ++ [natByte count, 0] ++ words.flatMap fun w => bytes32 (readTableWord w))))

/-- R140, R143: with every reply slot taken, or with a command waiting at the head for job room, no command is taken.
R47, R143: a waiting command is executed when room has appeared: its outcome is that of the command taken afresh, with
the slot it held. -/
def Obligations.HeadCommandWaits : Prop :=
  (∀ s : State, 8 ≤ s.cmd.slots ∨ s.cmd.waiting = true → exec .unknownCommand s = .next s ∧ exec .writeTable s = .next s ∧
    ∀ e ∈ fixedCommands, exec e.2.1 s = .next s) ∧
  ∀ (s : State) (c : CommandPacket), s.resetHeld = false → s.cmd.queue.head? = some c → s.cmd.waiting = true →
    1 ≤ s.cmd.slots → s.cmd.slots ≤ 8 → s.jobs.length < 4 →
    let afresh : State := { s with cmd := { s.cmd with slots := s.cmd.slots - 1, waiting := false } }
    (c.code = 0x20 → ∃ t, exec .waitingCommandResumed s = .next t ∧ exec .openTable afresh = .next t ∧
      t.cmd.queue = s.cmd.queue.tail) ∧
    (c.code = 0x22 → ∃ t, exec .waitingCommandResumed s = .next t ∧ exec .closeTable afresh = .next t ∧
      t.cmd.queue = s.cmd.queue.tail) ∧
    (c.code = 0x24 → ∃ t, exec .waitingCommandResumed s = .next t ∧ exec .scrubBank afresh = .next t ∧
      t.cmd.queue = s.cmd.queue.tail)

/-- R66, R67, R68, R71: WRITE_CONFIG. (That a KEY stage keeps its option byte as carried, and a CURVE stage the low three
bits of its own, is read from R66, log 18.) -/
def Obligations.WriteConfigReplacesStagedRecord : Prop :=
  ∀ (s : State) (c : CommandPacket), HeadReady s c → c.code = 0x30 → c.payload.length = 22 →
    let kind := byteAt c.payload 0
    let index := byteAt c.payload 1
    let area := c.payload.drop 2
    (s.cfg.frozen = true → exec .writeConfig s = .next (s.answered c .pending [0, 0])) ∧
    (s.cfg.frozen = false → recordNameOf kind index = none →
      exec .writeConfig s = .next (s.answered c .badArgument [0, 0])) ∧
    ∀ name, s.cfg.frozen = false → recordNameOf kind index = some name →
      (RecordInvalid area name → exec .writeConfig s = .next (s.answered c .badArgument [0, 0])) ∧
      (¬ RecordInvalid area name → ∃ staged : Configuration,
        staged.Holds area name ∧ (∀ other, other ≠ name → staged.area other = s.cfg.staged.area other) ∧
        exec .writeConfig s = .next ({ s with cfg := { s.cfg with staged := staged } }.answered c .ok [kind, index]))

/-- R70, R73: READ_CONFIG. Every reply with a payload reports the freeze flag. Its record area is in WRITE_CONFIG's layout: carried back, it gives the same configuration. -/
def Obligations.ReadConfigReturnsRecord : Prop :=
  (∀ (c d : Configuration) (name : RecordName) (area : List Byte), c.withRecord name area = some d →
    (d.area name).length = 20 ∧ d.withRecord name (d.area name) = some d) ∧
  ∀ (s : State) (c : CommandPacket) (side kind index : Byte), HeadReady s c → c.code = 0x31 →
    c.payload = [side, kind, index] →
    let refused := zeros 3 ++ [flagByte s.cfg.frozen] ++ zeros 20
    (2 < side.toNat ∨ recordNameOf kind index = none → exec .readConfig s = .next (s.answered c .badArgument refused)) ∧
    ∀ name, recordNameOf kind index = some name →
      let ok (cfg : Configuration) := s.answered c .ok ([side, kind, index, flagByte s.cfg.frozen] ++ cfg.area name)
      (side = 0 → exec .readConfig s = .next (ok s.cfg.active)) ∧
      (side = 1 → exec .readConfig s = .next (ok s.cfg.staged)) ∧
      (side = 2 → s.commit.state = .idle ∨ s.commit.state = .pending →
        exec .readConfig s = .next (s.answered c .wrongState refused)) ∧
      (∀ saved, side = 2 → s.commit.state = .guarding ∨ s.commit.state = .rollbackPending → s.cfg.saved = some saved →
        exec .readConfig s = .next (ok saved))

/-- R76, R77, R78, R79: COMMIT. `p` is the commit its payload names. The reply to UNBOUND also carries the staged state
(log 15), the reply to an accepted NEXT carries frame number 0 (log 17), and a TARGET_PAST says that a boundary has been seen
(log 33). -/
def Obligations.CommitCheckedAndAccepted : Prop :=
  ∀ (s : State) (c : CommandPacket), HeadReady s c → c.code = 0x32 → c.payload.length = 7 →
    let p : PendingCommit := ⟨if byteAt c.payload 0 = 0 then .next else .at (halfAt c.payload 1),
      (halfAt c.payload 3).extractLsb' 1 10, (byteAt c.payload 5).getLsbD 0, (byteAt c.payload 6).extractLsb' 0 4⟩
    let malformed : Prop := 1 < (byteAt c.payload 0).toNat ∨ 15 < (byteAt c.payload 6).toNat ∨
      (halfAt c.payload 3).getLsbD 0 = true ∨ (halfAt c.payload 3).extractLsb' 11 5 ≠ 0 ∨
      (p.handles = 0 ∧ p.includeConfig = false)
    let unready (h : Handle) : Prop := HandleSet.has p.handles h = true ∧ (s.banks.record h).stagedState ≠ .loaded
    let future := if p.includeConfig then s.cfg.staged else s.cfg.active
    let unbound (h : Handle) : Prop :=
      future.names h = true ∧ HandleSet.has p.handles h = false ∧ (s.banks.record h).active = none
    let past : Prop := ∃ n, p.target = .at n ∧ s.rx.boundarySeen = true ∧ (s.rx.lastBoundary - n).toNat < 32768
    let boundary := bytes16 (if s.rx.boundarySeen then s.rx.lastBoundary else 0) ++ [flagByte s.rx.boundarySeen]
    let named (h : Handle) := zeros 6 ++ [handleByte h, (s.banks.record h).stagedState.byte]
    (s.commit.state = .pending → exec .commit s = .next (s.answered c .pending (zeros 8))) ∧
    (s.commit.state = .guarding ∨ s.commit.state = .rollbackPending →
      exec .commit s = .next (s.answered c .guardActive (zeros 8))) ∧
    (s.commit.state = .idle → malformed → exec .commit s = .next (s.answered c .badArgument (zeros 8))) ∧
    (s.commit.state = .idle → ¬ malformed →
      (∀ h, unready h → (∀ k < h, ¬ unready k) → exec .commit s = .next (s.answered c .wrongState (named h))) ∧
      ((∀ h, ¬ unready h) →
        (∀ h, unbound h → (∀ k < h, ¬ unbound k) → exec .commit s = .next (s.answered c .unbound (named h))) ∧
        ((∀ h, ¬ unbound h) →
          (past → exec .commit s = .next (s.answered c .targetPast (zeros 3 ++ boundary ++ zeros 2))) ∧
          (¬ past → ∃ banks : BankMap,
            (∀ h : Handle, banks.record h = if HandleSet.has p.handles h
              then { s.banks.record h with stagedState := .committing } else s.banks.record h) ∧
            banks.free = s.banks.free ∧ banks.quarantine = s.banks.quarantine ∧ banks.withdrawn = s.banks.withdrawn ∧
            exec .commit s = .next ({ s with
                banks := banks, cfg := { s.cfg with frozen := s.cfg.frozen || p.includeConfig },
                commit := { s.commit with state := .pending, pendingCommit := some p, lastApplied := false } }.answered c .ok
              ((match p.target with | .next => [0, 0, 0] | .at n => 1 :: bytes16 n) ++ boundary ++ zeros 2))))))

/-- R85: CANCEL_COMMIT; R38, R95, R96: CONFIRM_COMMIT; R99: ROLLBACK_COMMIT. Their replies carry the commit state and the
guard counter whatever the status (log 16). -/
def Obligations.CancelConfirmRollbackCommands : Prop :=
  ∀ (s : State) (c : CommandPacket), HeadReady s c → c.payload = [] →
    let counter : Byte := s.commit.guardCounter.setWidth 8
    (c.code = 0x33 →
      (∀ p, s.commit.state = .pending → s.commit.pendingCommit = some p → ∃ banks : BankMap,
        (∀ h : Handle, banks.record h = if HandleSet.has p.handles h
          then { s.banks.record h with stagedState := .loaded } else s.banks.record h) ∧
        banks.free = s.banks.free ∧ banks.quarantine = s.banks.quarantine ∧ banks.withdrawn = s.banks.withdrawn ∧
        exec .cancelCommit s = .next ({ s with
          banks := banks, cfg := { s.cfg with frozen := false },
          commit := { s.commit with state := .idle, pendingCommit := none } }.answered c .ok [0, counter])) ∧
      (s.commit.state = .idle → exec .cancelCommit s = .next
        (s.answered c (if s.commit.lastApplied then .late else .wrongState) [0, counter])) ∧
      (s.commit.state = .guarding → exec .cancelCommit s = .next (s.answered c .guardActive [2, counter])) ∧
      (s.commit.state = .rollbackPending → exec .cancelCommit s = .next (s.answered c .guardActive [3, counter]))) ∧
    (c.code = 0x34 →
      (s.commit.state = .guarding → ∃ banks : BankMap,
        (∀ h : Handle, banks.record h = { s.banks.record h with retained := none }) ∧
        banks.free = s.banks.free ++ freedBanks (sidesOf s.banks (fun _ => true) (·.retained)) ∧
        banks.quarantine = s.banks.quarantine ++ quarantinedBanks (sidesOf s.banks (fun _ => true) (·.retained)) ∧
        banks.withdrawn = s.banks.withdrawn ∧
        exec .confirmCommit s = .next (({ s with
          banks := banks, cfg := { s.cfg with saved := none },
          commit := { s.commit with state := .idle, guardedSet := none, guardCounter := 0 } }.latch 0x020).answered c .ok
            [0, 0])) ∧
      (s.commit.state = .rollbackPending → exec .confirmCommit s = .next (s.answered c .late [3, counter])) ∧
      (s.commit.state = .idle → exec .confirmCommit s = .next (s.answered c .wrongState [0, counter])) ∧
      (s.commit.state = .pending → exec .confirmCommit s = .next (s.answered c .wrongState [1, counter]))) ∧
    (c.code = 0x35 →
      (s.commit.state = .guarding → exec .rollbackCommit s = .next
        ({ s with commit := { s.commit with state := .rollbackPending } }.answered c .ok [3, counter])) ∧
      (s.commit.state = .rollbackPending → exec .rollbackCommit s = .next (s.answered c .ok [3, counter])) ∧
      (s.commit.state = .idle → exec .rollbackCommit s = .next (s.answered c .wrongState [0, counter])) ∧
      (s.commit.state = .pending → exec .rollbackCommit s = .next (s.answered c .wrongState [1, counter])))

/-- R93, R95: the commit unit takes an outcome. (That outcomes handed over and not yet taken are a list, of which the oldest
is taken, is read from the spec, log 25.) -/
def Obligations.GuardOutcomeTaken : Prop :=
  ∀ (s : State) (o : GuardOutcome) (rest : List GuardOutcome), s.resetHeld = false → s.commit.handed = o :: rest →
    let taken : State := { s with commit := { s.commit with handed := rest } }
    (s.commit.state ≠ .guarding ∨ o = .notCounted → exec .guardOutcome s = .next taken.reportEvents) ∧
    (s.commit.state = .guarding → o = .failed → exec .guardOutcome s = .next
      { s with commit := { s.commit with handed := rest, state := .rollbackPending } }.reportEvents) ∧
    (s.commit.state = .guarding → o = .counted → 2 ≤ s.commit.guardCounter.toNat → exec .guardOutcome s = .next
      { s with commit := { s.commit with handed := rest, guardCounter := s.commit.guardCounter - 1 } }.reportEvents) ∧
    (s.commit.state = .guarding → o = .counted → s.commit.guardCounter = 1 → ∃ banks : BankMap,
      (∀ h : Handle, banks.record h = { s.banks.record h with retained := none }) ∧
      banks.free = s.banks.free ++ freedBanks (sidesOf s.banks (fun _ => true) (·.retained)) ∧
      banks.quarantine = s.banks.quarantine ++ quarantinedBanks (sidesOf s.banks (fun _ => true) (·.retained)) ∧
      banks.withdrawn = s.banks.withdrawn ∧
      exec .guardOutcome s = .next ({ s with
        banks := banks, cfg := { s.cfg with saved := none },
        commit := { s.commit with handed := rest, state := .idle, guardedSet := none, guardCounter := 0 } }.latch
          0x020).reportEvents)

/-- R10: SET_MODE; R133: SET_LINK_OPTIONS; R171, R172: CLAIM_ADDRESS, whose reply carries the address that stands after
the command as its source. -/
def Obligations.SettingsCommands : Prop :=
  ∀ (s : State) (c : CommandPacket) (b : Byte), HeadReady s c → c.payload = [b] →
    (c.code = 0x10 → exec .setMode s = .next (
      if b = 0 then { s with pix := { s.pix with pendingMode := some .bypass } }.answered c .ok []
      else if b = 1 then { s with pix := { s.pix with pendingMode := some .active } }.answered c .ok []
      else s.answered c .badArgument [])) ∧
    (c.code = 0x04 → exec .setLinkOptions s = .next (
      if b = 0 then s.answered c .badArgument [0]
      else { s with rx := { s.rx with setting := b } }.answered c .ok [b])) ∧
    (c.code = 0x03 →
      let d := c.dest.extractLsb' 0 6
      let present : Byte := s.address.setWidth 8
      exec .claimAddress s = .next (
        if d = 63 ∨ b.toNat = 0 ∨ 62 < b.toNat then s.answered c .badArgument [present, present]
        else if d ≠ s.address then s.answered c .wrongState [present, present]
        else { s with address := b.extractLsb' 0 6 }.answered c .ok [present, b]))

/-- R158: ACK_EVENTS; R159: SET_EVENT_MASK. -/
def Obligations.EventAcknowledgeAndMask : Prop :=
  ∀ (s : State) (c : CommandPacket), HeadReady s c → c.payload.length = 2 →
    let kinds : BitVec 11 := (halfAt c.payload 0).extractLsb' 0 11
    let unknown : Prop := (halfAt c.payload 0).extractLsb' 11 5 ≠ 0
    let report (t : State) := bytes16 (t.events.latched.setWidth 16) ++ bytes16 (t.events.masked.setWidth 16)
    (c.code = 0x05 →
      (unknown → exec .ackEvents s = .next (s.answered c .badArgument [0, 0, 0, 0])) ∧
      (¬ unknown →
        let t : State := { s with events := { s.events with
          latched := s.events.latched &&& ~~~kinds, reported := s.events.reported &&& ~~~kinds } }
        exec .ackEvents s = .next (t.answered c .ok (report t)))) ∧
    (c.code = 0x06 →
      (unknown → exec .setEventMask s = .next (s.answered c .badArgument [0, 0, 0, 0])) ∧
      (¬ unknown →
        let t : State := { s with events := { s.events with masked := kinds } }
        exec .setEventMask s = .next (t.answered c .ok (report t))))

/-- R115: CAPTURE_SIGNATURE. -/
def Obligations.CaptureArmed : Prop :=
  ∀ (s : State) (c : CommandPacket), HeadReady s c → c.code = 0x40 → c.payload.length = 9 →
    let x0 := (halfAt c.payload 1).toNat
    let y0 := (halfAt c.payload 3).toNat
    let x1 := (halfAt c.payload 5).toNat
    let y1 := (halfAt c.payload 7).toNat
    let point := byteAt c.payload 0
    let valid := point.toNat ≤ 1 ∧ x1 ≤ 4095 ∧ y1 ≤ 4095 ∧ x0 ≤ x1 ∧ y0 ≤ y1
    (s.sig.capture ≠ .idle → exec .captureSignature s = .next (s.answered c .busy (zeros 22))) ∧
    (s.sig.capture = .idle → ¬ valid → exec .captureSignature s = .next (s.answered c .badArgument (zeros 22))) ∧
    (s.sig.capture = .idle → valid → exec .captureSignature s = .next
      { s.headTaken with sig := { s.sig with capture := .armed ⟨if point = 0 then .input else .output,
          ⟨BitVec.ofNat 12 x0, BitVec.ofNat 12 y0, BitVec.ofNat 12 x1, BitVec.ofNat 12 y1⟩, c.tag, c.code, 0⟩ } }.reportEvents)

/-- R114: READ_WINDOW; R147: IDENTIFY; R148 and Table 11.7-3: READ_STATUS. Each changes nothing. (That the four bytes of an
absent last signature are 0 is read from R178, log 34.) -/
def Obligations.ReportsOfThePart : Prop :=
  ∀ (s : State) (c : CommandPacket), HeadReady s c →
    (c.code = 0x01 → c.payload = [] → exec .identify s = .next
      (s.answered c .ok [0x4C, 0x31, 2, s.address.setWidth 8, 16, 10, 4, 4, 6, 4])) ∧
    (c.code = 0x02 → c.payload = [] → exec .readStatus s = .next (s.answered c .ok
      ([s.pix.mode.byte, match s.pix.pendingMode with | none => 0xFF | some m => m.byte, s.rx.state.byte,
        flagByte s.rx.boundarySeen] ++ bytes16 (if s.rx.boundarySeen then s.rx.lastFrame else 0)
        ++ bytes16 (if s.rx.boundarySeen then s.rx.lastBoundary else 0)
        ++ [s.commit.state.byte, s.commit.guardCounter.setWidth 8, natByte s.banks.free.length,
            natByte s.banks.quarantine.length, natByte s.banks.withdrawn.length, s.sig.capture.byte]
        ++ ([0, 1, 2, 3, 4, 5, 6, 7, 8, 9].map fun h : Handle => (s.banks.record h).stagedState.byte)
        ++ bytes16 s.cmd.dropped ++ bytes16 s.rx.linkErrors ++ bytes16 s.rx.brokenFrames
        ++ [s.ret.upGrant - s.ret.upSent, 0]))) ∧
    (∀ b : Byte, c.code = 0x41 → c.payload = [b] → 4 ≤ b.toNat →
      exec .readWindow s = .next (s.answered c .badArgument (zeros 30))) ∧
    (∀ k : Fin 4, c.code = 0x41 → c.payload = [natByte k.val] →
      let w := s.sig.checkers[k.val]
      exec .readWindow s = .next (s.answered c .ok
        ([natByte k.val, flagByte w.lastSignature.isSome] ++ s.cfg.active.windows[k.val].bytes
          ++ [w.count.setWidth 8, 0] ++ bytes32 (w.lastSignature.getD 0) ++ bytes16 w.matched ++ bytes16 w.mismatched
          ++ bytes16 w.skipped)))

end Statements
end

