-- ==== Sys2Proof/Laws/Banks.lean ====
section
/-! SUPPORT. The laws of the bank map: what each move of banks does to the records, the free list and the two sets
(R32, R37, R38, R44). -/

namespace Sys2Proof.Machine

/-! ### One record -/

theorem BankMap.record_modify (b : BankMap) (h h' : Handle) (f : HandleRecord → HandleRecord) :
    (b.modify h f).record h' = if h' = h then f (b.record h) else b.record h' := by
  simp only [BankMap.record, BankMap.modify, Vector.getElem_set]
  by_cases e : h' = h
  · simp [e]
  · rw [if_neg (fun e' => e (Fin.ext e'.symm)), if_neg e]

@[simp] theorem BankMap.modify_free (b : BankMap) (h : Handle) (f : HandleRecord → HandleRecord) :
    (b.modify h f).free = b.free := rfl

@[simp] theorem BankMap.modify_quarantine (b : BankMap) (h : Handle) (f : HandleRecord → HandleRecord) :
    (b.modify h f).quarantine = b.quarantine := rfl

@[simp] theorem BankMap.modify_withdrawn (b : BankMap) (h : Handle) (f : HandleRecord → HandleRecord) :
    (b.modify h f).withdrawn = b.withdrawn := rfl

/-- Two bank maps with the same records and the same lists are equal. -/
theorem BankMap.ext_records {b b' : BankMap} (hr : ∀ h, b.record h = b'.record h) (hf : b.free = b'.free)
    (hq : b.quarantine = b'.quarantine) (hw : b.withdrawn = b'.withdrawn) : b = b' := by
  obtain ⟨v, f, q, w⟩ := b
  obtain ⟨v', f', q', w'⟩ := b'
  simp only at hf hq hw
  subst hf hq hw
  simp only [BankMap.mk.injEq, and_true]
  exact Vector.ext fun i hi => hr ⟨i, hi⟩

/-! ### One move -/

/-- What a move of banks at one handle does: the record of the handle becomes `new`, and the bank of the side `gone`, if
there is one, joins the free list or the quarantine set by its mark (R32). -/
structure BankMap.MovedAt (b b' : BankMap) (h : Handle) (new : HandleRecord) (gone : Option Side) : Prop where
  record     : ∀ h', b'.record h' = if h' = h then new else b.record h'
  free       : b'.free = b.free ++ freedBanks [gone]
  quarantine : b'.quarantine = b.quarantine ++ quarantinedBanks [gone]
  withdrawn  : b'.withdrawn = b.withdrawn

theorem BankMap.modify_moved (b : BankMap) (h : Handle) (f : HandleRecord → HandleRecord) :
    b.MovedAt (b.modify h f) h (f (b.record h)) none :=
  ⟨fun h' => b.record_modify h h' f, by simp [freedBanks], by simp [quarantinedBanks], rfl⟩

theorem BankMap.giveUp_moved (b : BankMap) (h : Handle) (f : HandleRecord → HandleRecord) (side : Side) :
    b.MovedAt ((b.modify h f).giveUp side) h (f (b.record h)) (some side) := by
  unfold BankMap.giveUp
  split <;> rename_i hm
  · exact ⟨fun h' => b.record_modify h h' f, by simp [freedBanks, hm], by simp [quarantinedBanks, hm], rfl⟩
  · exact ⟨fun h' => b.record_modify h h' f, by simp [freedBanks, hm], by simp [quarantinedBanks, hm], rfl⟩

/-- A move followed by a change of the same record. -/
theorem BankMap.MovedAt.modify {b b' : BankMap} {h : Handle} {new : HandleRecord} {gone : Option Side}
    (m : b.MovedAt b' h new gone) (f : HandleRecord → HandleRecord) : b.MovedAt (b'.modify h f) h (f new) gone :=
  ⟨fun h' => by rw [BankMap.record_modify, m.record h']; split <;> simp_all [m.record h],
    m.free, m.quarantine, m.withdrawn⟩

theorem BankMap.refl_moved (b : BankMap) (h : Handle) : b.MovedAt b h (b.record h) none :=
  ⟨fun h' => by split <;> simp_all, by simp [freedBanks], by simp [quarantinedBanks], rfl⟩

theorem BankMap.releaseActive_moved (b : BankMap) (h : Handle) :
    b.MovedAt (b.releaseActive h) h { b.record h with active := none } (b.record h).active := by
  unfold BankMap.releaseActive
  cases e : (b.record h).active with
  | none =>
      have : b.record h = { b.record h with active := none } := by rw [← e]
      exact this ▸ b.refl_moved h
  | some side => exact b.giveUp_moved h (fun r => { r with active := none }) side

theorem BankMap.releaseRetained_moved (b : BankMap) (h : Handle) :
    b.MovedAt (b.releaseRetained h) h { b.record h with retained := none } (b.record h).retained := by
  unfold BankMap.releaseRetained
  cases e : (b.record h).retained with
  | none =>
      have : b.record h = { b.record h with retained := none } := by rw [← e]
      exact this ▸ b.refl_moved h
  | some side => exact b.giveUp_moved h (fun r => { r with retained := none }) side

theorem BankMap.releaseStaged_moved (b : BankMap) (h : Handle) :
    b.MovedAt (b.releaseStaged h) h { b.record h with staged := none, stagedState := .none } (b.record h).staged := by
  unfold BankMap.releaseStaged
  cases e : (b.record h).staged with
  | none =>
      have := b.modify_moved h fun r => { r with stagedState := .none }
      simp only [e] at this ⊢
      convert this using 2
  | some side => exact b.giveUp_moved h (fun r => { r with staged := none, stagedState := .none }) side

/-- Commit application at one handle (R37). -/
theorem BankMap.applyHandle_moved (underGuard : Bool) (b : BankMap) (h : Handle) :
    b.MovedAt (b.applyHandle underGuard h) h
      { b.record h with
        active := (b.record h).staged, staged := none, stagedState := .none,
        retained := if underGuard = true ∧ (b.record h).active ≠ none then (b.record h).active
          else (b.record h).retained }
      (if underGuard then none else (b.record h).active) := by
  unfold BankMap.applyHandle
  cases underGuard with
  | false =>
      have := (b.releaseActive_moved h).modify fun r => { r with active := r.staged, staged := none, stagedState := .none }
      simpa using this
  | true =>
      cases e : (b.record h).active with
      | none =>
          have := b.modify_moved h fun r => { r with active := r.staged, staged := none, stagedState := .none }
          simpa using this
      | some side =>
          have := (b.modify_moved h fun r => { r with active := none, retained := some side }).modify
            fun r => { r with active := r.staged, staged := none, stagedState := .none }
          simpa using this

/-- Rollback at one handle (R38). -/
theorem BankMap.rollbackHandle_moved (b : BankMap) (h : Handle) :
    b.MovedAt (b.rollbackHandle h) h { b.record h with active := (b.record h).retained, retained := none }
      (b.record h).active :=
  (b.releaseActive_moved h).modify fun r => { r with active := r.retained, retained := none }

/-! ### Moves at many handles, in increasing handle number -/

/-- What a pass over a list of distinct handles does when each handle that meets the condition is moved. -/
theorem BankMap.foldl_moved {move : BankMap → Handle → BankMap} {cond : HandleRecord → Handle → Bool}
    {new : HandleRecord → HandleRecord} {gone : HandleRecord → Option Side}
    (hmove : ∀ b h, BankMap.MovedAt b (move b h) h (new (b.record h)) (gone (b.record h)))
    (l : List Handle) (hl : l.Nodup) (b : BankMap) :
    let b' := l.foldl (fun acc h => if cond (acc.record h) h then move acc h else acc) b
    let sides := (l.filter fun h => cond (b.record h) h).map fun h => gone (b.record h)
    (∀ h, b'.record h = if h ∈ l ∧ cond (b.record h) h = true then new (b.record h) else b.record h) ∧
      b'.free = b.free ++ freedBanks sides ∧ b'.quarantine = b.quarantine ++ quarantinedBanks sides ∧
      b'.withdrawn = b.withdrawn := by
  induction l generalizing b with
  | nil => simp [freedBanks, quarantinedBanks]
  | cons k l ih =>
      obtain ⟨hk, hl⟩ := List.nodup_cons.1 hl
      simp only [List.foldl_cons]
      by_cases hc : cond (b.record k) k = true
      · have m := hmove b k
        have same : ∀ h ∈ l, (move b k).record h = b.record h := fun h hh => by
          rw [m.record h, if_neg (fun e => hk (by rw [← e]; exact hh))]
        obtain ⟨h1, h2, h3, h4⟩ := ih hl (move b k)
        have hs : ((l.filter fun h => cond ((move b k).record h) h).map fun h => gone ((move b k).record h)) =
            (l.filter fun h => cond (b.record h) h).map fun h => gone (b.record h) := by
          rw [List.filter_congr fun h hh => by rw [same h hh]]
          exact List.map_congr_left fun h hh => by rw [same h (List.mem_filter.1 hh).1]
        simp only [hs] at h2 h3
        rw [if_pos hc]
        refine ⟨fun h => ?_, ?_, ?_, h4.trans m.withdrawn⟩
        · rw [h1 h, m.record h]
          by_cases e : h = k
          · subst e; simp [hk, hc]
          · simp [e]
        · rw [h2, m.free]; simp [freedBanks, hc, List.filterMap_cons]; split <;> simp_all
        · rw [h3, m.quarantine]
          simp [quarantinedBanks, hc, List.filterMap_cons]; split <;> simp_all
      · obtain ⟨h1, h2, h3, h4⟩ := ih hl b
        rw [if_neg hc]
        refine ⟨fun h => ?_, ?_, ?_, h4⟩
        · rw [h1 h]
          by_cases e : h = k
          · subst e; simp [hk, hc]
          · simp [e]
        · rw [h2]; simp [hc]
        · rw [h3]; simp [hc]

theorem allHandles_nodup : allHandles.Nodup := by decide

theorem mem_allHandles (h : Handle) : h ∈ allHandles := by revert h; decide

/-- Commit application (R37). -/
theorem BankMap.applyCommit_spec (b : BankMap) (set : HandleSet) (underGuard : Bool) :
    let sides := sidesOf b set.has fun r => if underGuard then none else r.active
    (∀ h, (b.applyCommit set underGuard).record h = if set.has h = true then
        { b.record h with
          active := (b.record h).staged, staged := none, stagedState := .none,
          retained := if underGuard = true ∧ (b.record h).active ≠ none then (b.record h).active
            else (b.record h).retained }
        else b.record h) ∧
      (b.applyCommit set underGuard).free = b.free ++ freedBanks sides ∧
      (b.applyCommit set underGuard).quarantine = b.quarantine ++ quarantinedBanks sides ∧
      (b.applyCommit set underGuard).withdrawn = b.withdrawn := by
  have := BankMap.foldl_moved (move := BankMap.applyHandle underGuard) (cond := fun _ h => set.has h)
    (new := fun r => { r with
      active := r.staged, staged := none, stagedState := .none,
      retained := if underGuard = true ∧ r.active ≠ none then r.active else r.retained })
    (gone := fun r => if underGuard then none else r.active)
    (fun b h => b.applyHandle_moved underGuard h) allHandles allHandles_nodup b
  simpa [BankMap.applyCommit, sidesOf, mem_allHandles] using this

/-- Confirm (R38). -/
theorem BankMap.confirm_spec (b : BankMap) :
    let sides := sidesOf b (fun _ => true) (·.retained)
    (∀ h, b.confirm.record h = { b.record h with retained := none }) ∧ b.confirm.free = b.free ++ freedBanks sides ∧
      b.confirm.quarantine = b.quarantine ++ quarantinedBanks sides ∧ b.confirm.withdrawn = b.withdrawn := by
  have := BankMap.foldl_moved (move := BankMap.releaseRetained) (cond := fun _ _ => true)
    (new := fun r => { r with retained := none }) (gone := (·.retained))
    (fun b h => b.releaseRetained_moved h) allHandles allHandles_nodup b
  simpa [BankMap.confirm, sidesOf, mem_allHandles] using this

/-- Rollback (R38). -/
theorem BankMap.rollback_spec (b : BankMap) (set : HandleSet) :
    let touched (h : Handle) : Bool := (b.record h).retained.isSome || set.has h
    (∀ h, (b.rollback set).record h = if touched h = true then
        { b.record h with active := (b.record h).retained, retained := none } else b.record h) ∧
      (b.rollback set).free = b.free ++ freedBanks (sidesOf b touched (·.active)) ∧
      (b.rollback set).quarantine = b.quarantine ++ quarantinedBanks (sidesOf b touched (·.active)) ∧
      (b.rollback set).withdrawn = b.withdrawn := by
  have := BankMap.foldl_moved (move := BankMap.rollbackHandle) (cond := fun r h => r.retained.isSome || set.has h)
    (new := fun r => { r with active := r.retained, retained := none }) (gone := (·.active))
    (fun b h => b.rollbackHandle_moved h) allHandles allHandles_nodup b
  simpa only [BankMap.rollback, sidesOf, mem_allHandles, true_and] using this

/-- Staged sides given up by a link reset (R44), when a staged side is present exactly outside the state NONE (R27). -/
theorem BankMap.releaseAllStaged_spec (b : BankMap) (hb : b.StagedAgrees) :
    let sides := sidesOf b (fun _ => true) (·.staged)
    (∀ h, b.releaseAllStaged.record h = { b.record h with staged := none, stagedState := .none }) ∧
      b.releaseAllStaged.free = b.free ++ freedBanks sides ∧
      b.releaseAllStaged.quarantine = b.quarantine ++ quarantinedBanks sides ∧
      b.releaseAllStaged.withdrawn = b.withdrawn := by
  have := BankMap.foldl_moved (move := BankMap.releaseStaged) (cond := fun r _ => decide (r.stagedState ≠ .none))
    (new := fun r => { r with staged := none, stagedState := .none }) (gone := (·.staged))
    (fun b h => b.releaseStaged_moved h) allHandles allHandles_nodup b
  have fold : b.releaseAllStaged = allHandles.foldl
      (fun acc h => if decide ((acc.record h).stagedState ≠ .none) then acc.releaseStaged h else acc) b := by
    unfold BankMap.releaseAllStaged
    congr 1; funext acc h; by_cases e : (acc.record h).stagedState = .none <;> simp [e]
  rw [← fold] at this
  obtain ⟨h1, h2, h3, h4⟩ := this
  have noSide : ∀ h, (b.record h).stagedState = .none → (b.record h).staged = none := fun h e => by
    have := hb h; simpa [e] using this
  have drop : ∀ (l : List Handle) (f : Option Side → Option Bank), f none = none →
      ((l.filter fun h => decide ((b.record h).stagedState ≠ .none)).map fun h => (b.record h).staged).filterMap f =
        (l.map fun h => (b.record h).staged).filterMap f := fun l f hf => by
    induction l with
    | nil => rfl
    | cons k l ih =>
        by_cases e : (b.record k).stagedState = .none
        · simp_all [noSide k e]
        · simp_all [List.filterMap_cons]
  refine ⟨fun h => ?_, ?_, ?_, h4⟩
  · rw [h1 h]
    by_cases e : (b.record h).stagedState = .none
    · have := noSide h e
      simp only [e, mem_allHandles, ne_eq, not_true_eq_false, decide_false, Bool.false_eq_true, and_false, if_false]
      rw [← this, ← e]
    · simp [e, mem_allHandles]
  · rw [h2]; simp only [freedBanks, sidesOf, List.filter_true]; rw [drop _ _ rfl]
  · rw [h3]; simp only [quarantinedBanks, sidesOf, List.filter_true]; rw [drop _ _ rfl]

/-- Staged states changed for the handles of a set (R79, R85). -/
theorem BankMap.setStagedStates_spec (b : BankMap) (set : HandleSet) (st : StagedState) :
    (∀ h, (b.setStagedStates set st).record h =
        if set.has h = true then { b.record h with stagedState := st } else b.record h) ∧
      (b.setStagedStates set st).free = b.free ∧ (b.setStagedStates set st).quarantine = b.quarantine ∧
      (b.setStagedStates set st).withdrawn = b.withdrawn := by
  have := BankMap.foldl_moved (move := fun b h => b.modify h fun r => { r with stagedState := st })
    (cond := fun _ h => set.has h) (new := fun r => { r with stagedState := st }) (gone := fun _ => none)
    (fun b h => b.modify_moved h _) allHandles allHandles_nodup b
  simpa [BankMap.setStagedStates, freedBanks, quarantinedBanks, mem_allHandles] using this

end Sys2Proof.Machine
end

