-- ==== Sys2Proof/Laws/State.lean ====
section
/-! SUPPORT. One lemma for each field and each named update of the state, so that no proof unfolds a record update. -/

namespace Sys2Proof.Machine

/-! ### Raising a kind (R156) -/

@[simp] theorem State.raise_rx (s : State) (k : EventKind) : (s.raise k).rx = s.rx := rfl
@[simp] theorem State.raise_pix (s : State) (k : EventKind) : (s.raise k).pix = s.pix := rfl
@[simp] theorem State.raise_mem (s : State) (k : EventKind) : (s.raise k).mem = s.mem := rfl
@[simp] theorem State.raise_banks (s : State) (k : EventKind) : (s.raise k).banks = s.banks := rfl
@[simp] theorem State.raise_jobs (s : State) (k : EventKind) : (s.raise k).jobs = s.jobs := rfl
@[simp] theorem State.raise_cfg (s : State) (k : EventKind) : (s.raise k).cfg = s.cfg := rfl
@[simp] theorem State.raise_commit (s : State) (k : EventKind) : (s.raise k).commit = s.commit := rfl
@[simp] theorem State.raise_sig (s : State) (k : EventKind) : (s.raise k).sig = s.sig := rfl
@[simp] theorem State.raise_cmd (s : State) (k : EventKind) : (s.raise k).cmd = s.cmd := rfl
@[simp] theorem State.raise_ret (s : State) (k : EventKind) : (s.raise k).ret = s.ret := rfl
@[simp] theorem State.raise_events (s : State) (k : EventKind) : (s.raise k).events = s.events.raise k := rfl
@[simp] theorem State.raise_creditDue (s : State) (k : EventKind) : (s.raise k).creditDue = s.creditDue := rfl
@[simp] theorem State.raise_address (s : State) (k : EventKind) : (s.raise k).address = s.address := rfl
@[simp] theorem State.raise_resetHeld (s : State) (k : EventKind) : (s.raise k).resetHeld = s.resetHeld := rfl
@[simp] theorem State.raise_downOut (s : State) (k : EventKind) : (s.raise k).downOut = s.downOut := rfl
@[simp] theorem State.raise_downHanded (s : State) (k : EventKind) : (s.raise k).downHanded = s.downHanded := rfl
@[simp] theorem State.raise_upOut (s : State) (k : EventKind) : (s.raise k).upOut = s.upOut := rfl
@[simp] theorem State.raise_reads (s : State) (k : EventKind) : (s.raise k).reads = s.reads := rfl
@[simp] theorem State.raise_abandons (s : State) (k : EventKind) : (s.raise k).abandons = s.abandons := rfl
@[simp] theorem State.raise_resets (s : State) (k : EventKind) : (s.raise k).resets = s.resets := rfl
@[simp] theorem State.raise_pending (s : State) (k : EventKind) : (s.raise k).pending = s.pending := rfl

/-! ### Raising a kind when its cause is present -/

@[simp] theorem State.raiseIf_rx (s : State) (cause : Bool) (k : EventKind) : (s.raiseIf cause k).rx = s.rx := by
  cases cause <;> rfl
@[simp] theorem State.raiseIf_pix (s : State) (cause : Bool) (k : EventKind) : (s.raiseIf cause k).pix = s.pix := by
  cases cause <;> rfl
@[simp] theorem State.raiseIf_mem (s : State) (cause : Bool) (k : EventKind) : (s.raiseIf cause k).mem = s.mem := by
  cases cause <;> rfl
@[simp] theorem State.raiseIf_banks (s : State) (cause : Bool) (k : EventKind) : (s.raiseIf cause k).banks = s.banks := by
  cases cause <;> rfl
@[simp] theorem State.raiseIf_jobs (s : State) (cause : Bool) (k : EventKind) : (s.raiseIf cause k).jobs = s.jobs := by
  cases cause <;> rfl
@[simp] theorem State.raiseIf_cfg (s : State) (cause : Bool) (k : EventKind) : (s.raiseIf cause k).cfg = s.cfg := by
  cases cause <;> rfl
@[simp] theorem State.raiseIf_commit (s : State) (cause : Bool) (k : EventKind) : (s.raiseIf cause k).commit = s.commit := by
  cases cause <;> rfl
@[simp] theorem State.raiseIf_sig (s : State) (cause : Bool) (k : EventKind) : (s.raiseIf cause k).sig = s.sig := by
  cases cause <;> rfl
@[simp] theorem State.raiseIf_cmd (s : State) (cause : Bool) (k : EventKind) : (s.raiseIf cause k).cmd = s.cmd := by
  cases cause <;> rfl
@[simp] theorem State.raiseIf_ret (s : State) (cause : Bool) (k : EventKind) : (s.raiseIf cause k).ret = s.ret := by
  cases cause <;> rfl
@[simp] theorem State.raiseIf_events (s : State) (cause : Bool) (k : EventKind) : (s.raiseIf cause k).events = if cause then s.events.raise k else s.events := by
  cases cause <;> rfl
@[simp] theorem State.raiseIf_creditDue (s : State) (cause : Bool) (k : EventKind) : (s.raiseIf cause k).creditDue = s.creditDue := by
  cases cause <;> rfl
@[simp] theorem State.raiseIf_address (s : State) (cause : Bool) (k : EventKind) : (s.raiseIf cause k).address = s.address := by
  cases cause <;> rfl
@[simp] theorem State.raiseIf_resetHeld (s : State) (cause : Bool) (k : EventKind) : (s.raiseIf cause k).resetHeld = s.resetHeld := by
  cases cause <;> rfl
@[simp] theorem State.raiseIf_downOut (s : State) (cause : Bool) (k : EventKind) : (s.raiseIf cause k).downOut = s.downOut := by
  cases cause <;> rfl
@[simp] theorem State.raiseIf_downHanded (s : State) (cause : Bool) (k : EventKind) : (s.raiseIf cause k).downHanded = s.downHanded := by
  cases cause <;> rfl
@[simp] theorem State.raiseIf_upOut (s : State) (cause : Bool) (k : EventKind) : (s.raiseIf cause k).upOut = s.upOut := by
  cases cause <;> rfl
@[simp] theorem State.raiseIf_reads (s : State) (cause : Bool) (k : EventKind) : (s.raiseIf cause k).reads = s.reads := by
  cases cause <;> rfl
@[simp] theorem State.raiseIf_abandons (s : State) (cause : Bool) (k : EventKind) : (s.raiseIf cause k).abandons = s.abandons := by
  cases cause <;> rfl
@[simp] theorem State.raiseIf_resets (s : State) (cause : Bool) (k : EventKind) : (s.raiseIf cause k).resets = s.resets := by
  cases cause <;> rfl
@[simp] theorem State.raiseIf_pending (s : State) (cause : Bool) (k : EventKind) : (s.raiseIf cause k).pending = s.pending := by
  cases cause <;> rfl

/-! ### A link error -/

@[simp] theorem State.linkError_rx (s : State) : (s.linkError).rx = { s.rx with linkErrors := saturate16 s.rx.linkErrors } := rfl
@[simp] theorem State.linkError_pix (s : State) : (s.linkError).pix = s.pix := rfl
@[simp] theorem State.linkError_mem (s : State) : (s.linkError).mem = s.mem := rfl
@[simp] theorem State.linkError_banks (s : State) : (s.linkError).banks = s.banks := rfl
@[simp] theorem State.linkError_jobs (s : State) : (s.linkError).jobs = s.jobs := rfl
@[simp] theorem State.linkError_cfg (s : State) : (s.linkError).cfg = s.cfg := rfl
@[simp] theorem State.linkError_commit (s : State) : (s.linkError).commit = s.commit := rfl
@[simp] theorem State.linkError_sig (s : State) : (s.linkError).sig = s.sig := rfl
@[simp] theorem State.linkError_cmd (s : State) : (s.linkError).cmd = s.cmd := rfl
@[simp] theorem State.linkError_ret (s : State) : (s.linkError).ret = s.ret := rfl
@[simp] theorem State.linkError_events (s : State) : (s.linkError).events = s.events.raise .linkError := rfl
@[simp] theorem State.linkError_creditDue (s : State) : (s.linkError).creditDue = s.creditDue := rfl
@[simp] theorem State.linkError_address (s : State) : (s.linkError).address = s.address := rfl
@[simp] theorem State.linkError_resetHeld (s : State) : (s.linkError).resetHeld = s.resetHeld := rfl
@[simp] theorem State.linkError_downOut (s : State) : (s.linkError).downOut = s.downOut := rfl
@[simp] theorem State.linkError_downHanded (s : State) : (s.linkError).downHanded = s.downHanded := rfl
@[simp] theorem State.linkError_upOut (s : State) : (s.linkError).upOut = s.upOut := rfl
@[simp] theorem State.linkError_reads (s : State) : (s.linkError).reads = s.reads := rfl
@[simp] theorem State.linkError_abandons (s : State) : (s.linkError).abandons = s.abandons := rfl
@[simp] theorem State.linkError_resets (s : State) : (s.linkError).resets = s.resets := rfl
@[simp] theorem State.linkError_pending (s : State) : (s.linkError).pending = s.pending := rfl

/-! ### The frame in progress ends broken (R131) -/

@[simp] theorem State.frameBroken_rx (s : State) : (s.frameBroken).rx = { s.rx with brokenFrames := saturate16 s.rx.brokenFrames } := rfl
@[simp] theorem State.frameBroken_pix (s : State) : (s.frameBroken).pix = s.pix := rfl
@[simp] theorem State.frameBroken_mem (s : State) : (s.frameBroken).mem = s.mem := rfl
@[simp] theorem State.frameBroken_banks (s : State) : (s.frameBroken).banks = s.banks := rfl
@[simp] theorem State.frameBroken_jobs (s : State) : (s.frameBroken).jobs = s.jobs := rfl
@[simp] theorem State.frameBroken_cfg (s : State) : (s.frameBroken).cfg = s.cfg := rfl
@[simp] theorem State.frameBroken_commit (s : State) : (s.frameBroken).commit = s.commit := rfl
@[simp] theorem State.frameBroken_sig (s : State) : (s.frameBroken).sig = s.sig := rfl
@[simp] theorem State.frameBroken_cmd (s : State) : (s.frameBroken).cmd = s.cmd := rfl
@[simp] theorem State.frameBroken_ret (s : State) : (s.frameBroken).ret = s.ret := rfl
@[simp] theorem State.frameBroken_events (s : State) : (s.frameBroken).events = s.events.raise .frameBroken := rfl
@[simp] theorem State.frameBroken_creditDue (s : State) : (s.frameBroken).creditDue = s.creditDue := rfl
@[simp] theorem State.frameBroken_address (s : State) : (s.frameBroken).address = s.address := rfl
@[simp] theorem State.frameBroken_resetHeld (s : State) : (s.frameBroken).resetHeld = s.resetHeld := rfl
@[simp] theorem State.frameBroken_downOut (s : State) : (s.frameBroken).downOut = s.downOut := rfl
@[simp] theorem State.frameBroken_downHanded (s : State) : (s.frameBroken).downHanded = s.downHanded := rfl
@[simp] theorem State.frameBroken_upOut (s : State) : (s.frameBroken).upOut = s.upOut := rfl
@[simp] theorem State.frameBroken_reads (s : State) : (s.frameBroken).reads = s.reads := rfl
@[simp] theorem State.frameBroken_abandons (s : State) : (s.frameBroken).abandons = s.abandons := rfl
@[simp] theorem State.frameBroken_resets (s : State) : (s.frameBroken).resets = s.resets := rfl
@[simp] theorem State.frameBroken_pending (s : State) : (s.frameBroken).pending = s.pending := rfl

/-! ### A packet on the downstream forward lane -/

@[simp] theorem State.forward_rx (s : State) (bytes : List Byte) : (s.forward bytes).rx = s.rx := rfl
@[simp] theorem State.forward_pix (s : State) (bytes : List Byte) : (s.forward bytes).pix = s.pix := rfl
@[simp] theorem State.forward_mem (s : State) (bytes : List Byte) : (s.forward bytes).mem = s.mem := rfl
@[simp] theorem State.forward_banks (s : State) (bytes : List Byte) : (s.forward bytes).banks = s.banks := rfl
@[simp] theorem State.forward_jobs (s : State) (bytes : List Byte) : (s.forward bytes).jobs = s.jobs := rfl
@[simp] theorem State.forward_cfg (s : State) (bytes : List Byte) : (s.forward bytes).cfg = s.cfg := rfl
@[simp] theorem State.forward_commit (s : State) (bytes : List Byte) : (s.forward bytes).commit = s.commit := rfl
@[simp] theorem State.forward_sig (s : State) (bytes : List Byte) : (s.forward bytes).sig = s.sig := rfl
@[simp] theorem State.forward_cmd (s : State) (bytes : List Byte) : (s.forward bytes).cmd = s.cmd := rfl
@[simp] theorem State.forward_ret (s : State) (bytes : List Byte) : (s.forward bytes).ret = s.ret := rfl
@[simp] theorem State.forward_events (s : State) (bytes : List Byte) : (s.forward bytes).events = s.events := rfl
@[simp] theorem State.forward_creditDue (s : State) (bytes : List Byte) : (s.forward bytes).creditDue = s.creditDue := rfl
@[simp] theorem State.forward_address (s : State) (bytes : List Byte) : (s.forward bytes).address = s.address := rfl
@[simp] theorem State.forward_resetHeld (s : State) (bytes : List Byte) : (s.forward bytes).resetHeld = s.resetHeld := rfl
@[simp] theorem State.forward_downOut (s : State) (bytes : List Byte) : (s.forward bytes).downOut = s.downOut ++ [⟨bytes, true⟩] := rfl
@[simp] theorem State.forward_downHanded (s : State) (bytes : List Byte) : (s.forward bytes).downHanded = s.downHanded + 1 := rfl
@[simp] theorem State.forward_upOut (s : State) (bytes : List Byte) : (s.forward bytes).upOut = s.upOut := rfl
@[simp] theorem State.forward_reads (s : State) (bytes : List Byte) : (s.forward bytes).reads = s.reads := rfl
@[simp] theorem State.forward_abandons (s : State) (bytes : List Byte) : (s.forward bytes).abandons = s.abandons := rfl
@[simp] theorem State.forward_resets (s : State) (bytes : List Byte) : (s.forward bytes).resets = s.resets := rfl
@[simp] theorem State.forward_pending (s : State) (bytes : List Byte) : (s.forward bytes).pending = s.pending := rfl

/-! ### A message on the upstream return lane -/

@[simp] theorem State.sendUp_rx (s : State) (bytes : List Byte) : (s.sendUp bytes).rx = s.rx := rfl
@[simp] theorem State.sendUp_pix (s : State) (bytes : List Byte) : (s.sendUp bytes).pix = s.pix := rfl
@[simp] theorem State.sendUp_mem (s : State) (bytes : List Byte) : (s.sendUp bytes).mem = s.mem := rfl
@[simp] theorem State.sendUp_banks (s : State) (bytes : List Byte) : (s.sendUp bytes).banks = s.banks := rfl
@[simp] theorem State.sendUp_jobs (s : State) (bytes : List Byte) : (s.sendUp bytes).jobs = s.jobs := rfl
@[simp] theorem State.sendUp_cfg (s : State) (bytes : List Byte) : (s.sendUp bytes).cfg = s.cfg := rfl
@[simp] theorem State.sendUp_commit (s : State) (bytes : List Byte) : (s.sendUp bytes).commit = s.commit := rfl
@[simp] theorem State.sendUp_sig (s : State) (bytes : List Byte) : (s.sendUp bytes).sig = s.sig := rfl
@[simp] theorem State.sendUp_cmd (s : State) (bytes : List Byte) : (s.sendUp bytes).cmd = s.cmd := rfl
@[simp] theorem State.sendUp_ret (s : State) (bytes : List Byte) : (s.sendUp bytes).ret = s.ret := rfl
@[simp] theorem State.sendUp_events (s : State) (bytes : List Byte) : (s.sendUp bytes).events = s.events := rfl
@[simp] theorem State.sendUp_creditDue (s : State) (bytes : List Byte) : (s.sendUp bytes).creditDue = s.creditDue := rfl
@[simp] theorem State.sendUp_address (s : State) (bytes : List Byte) : (s.sendUp bytes).address = s.address := rfl
@[simp] theorem State.sendUp_resetHeld (s : State) (bytes : List Byte) : (s.sendUp bytes).resetHeld = s.resetHeld := rfl
@[simp] theorem State.sendUp_downOut (s : State) (bytes : List Byte) : (s.sendUp bytes).downOut = s.downOut := rfl
@[simp] theorem State.sendUp_downHanded (s : State) (bytes : List Byte) : (s.sendUp bytes).downHanded = s.downHanded := rfl
@[simp] theorem State.sendUp_upOut (s : State) (bytes : List Byte) : (s.sendUp bytes).upOut = s.upOut ++ [⟨bytes, true⟩] := rfl
@[simp] theorem State.sendUp_reads (s : State) (bytes : List Byte) : (s.sendUp bytes).reads = s.reads := rfl
@[simp] theorem State.sendUp_abandons (s : State) (bytes : List Byte) : (s.sendUp bytes).abandons = s.abandons := rfl
@[simp] theorem State.sendUp_resets (s : State) (bytes : List Byte) : (s.sendUp bytes).resets = s.resets := rfl
@[simp] theorem State.sendUp_pending (s : State) (bytes : List Byte) : (s.sendUp bytes).pending = s.pending := rfl

/-! ### A reply made ready (R145, R154) -/

@[simp] theorem State.reply_rx (s : State) (tag code : Byte) (status : Status) (payload : List Byte) : (s.reply tag code status payload).rx = s.rx := rfl
@[simp] theorem State.reply_pix (s : State) (tag code : Byte) (status : Status) (payload : List Byte) : (s.reply tag code status payload).pix = s.pix := rfl
@[simp] theorem State.reply_mem (s : State) (tag code : Byte) (status : Status) (payload : List Byte) : (s.reply tag code status payload).mem = s.mem := rfl
@[simp] theorem State.reply_banks (s : State) (tag code : Byte) (status : Status) (payload : List Byte) : (s.reply tag code status payload).banks = s.banks := rfl
@[simp] theorem State.reply_jobs (s : State) (tag code : Byte) (status : Status) (payload : List Byte) : (s.reply tag code status payload).jobs = s.jobs := rfl
@[simp] theorem State.reply_cfg (s : State) (tag code : Byte) (status : Status) (payload : List Byte) : (s.reply tag code status payload).cfg = s.cfg := rfl
@[simp] theorem State.reply_commit (s : State) (tag code : Byte) (status : Status) (payload : List Byte) : (s.reply tag code status payload).commit = s.commit := rfl
@[simp] theorem State.reply_sig (s : State) (tag code : Byte) (status : Status) (payload : List Byte) : (s.reply tag code status payload).sig = s.sig := rfl
@[simp] theorem State.reply_cmd (s : State) (tag code : Byte) (status : Status) (payload : List Byte) : (s.reply tag code status payload).cmd = s.cmd := rfl
@[simp] theorem State.reply_ret (s : State) (tag code : Byte) (status : Status) (payload : List Byte) : (s.reply tag code status payload).ret = { s.ret with own := s.ret.own ++ [.reply ⟨s.address, tag, code, status, payload⟩] } := rfl
@[simp] theorem State.reply_events (s : State) (tag code : Byte) (status : Status) (payload : List Byte) : (s.reply tag code status payload).events = s.events := rfl
@[simp] theorem State.reply_creditDue (s : State) (tag code : Byte) (status : Status) (payload : List Byte) : (s.reply tag code status payload).creditDue = s.creditDue := rfl
@[simp] theorem State.reply_address (s : State) (tag code : Byte) (status : Status) (payload : List Byte) : (s.reply tag code status payload).address = s.address := rfl
@[simp] theorem State.reply_resetHeld (s : State) (tag code : Byte) (status : Status) (payload : List Byte) : (s.reply tag code status payload).resetHeld = s.resetHeld := rfl
@[simp] theorem State.reply_downOut (s : State) (tag code : Byte) (status : Status) (payload : List Byte) : (s.reply tag code status payload).downOut = s.downOut := rfl
@[simp] theorem State.reply_downHanded (s : State) (tag code : Byte) (status : Status) (payload : List Byte) : (s.reply tag code status payload).downHanded = s.downHanded := rfl
@[simp] theorem State.reply_upOut (s : State) (tag code : Byte) (status : Status) (payload : List Byte) : (s.reply tag code status payload).upOut = s.upOut := rfl
@[simp] theorem State.reply_reads (s : State) (tag code : Byte) (status : Status) (payload : List Byte) : (s.reply tag code status payload).reads = s.reads := rfl
@[simp] theorem State.reply_abandons (s : State) (tag code : Byte) (status : Status) (payload : List Byte) : (s.reply tag code status payload).abandons = s.abandons := rfl
@[simp] theorem State.reply_resets (s : State) (tag code : Byte) (status : Status) (payload : List Byte) : (s.reply tag code status payload).resets = s.resets := rfl
@[simp] theorem State.reply_pending (s : State) (tag code : Byte) (status : Status) (payload : List Byte) : (s.reply tag code status payload).pending = s.pending := rfl

/-! ### The EV queued (R157) -/

@[simp] theorem State.queueEvent_rx (s : State) : (s.queueEvent).rx = s.rx := rfl
@[simp] theorem State.queueEvent_pix (s : State) : (s.queueEvent).pix = s.pix := rfl
@[simp] theorem State.queueEvent_mem (s : State) : (s.queueEvent).mem = s.mem := rfl
@[simp] theorem State.queueEvent_banks (s : State) : (s.queueEvent).banks = s.banks := rfl
@[simp] theorem State.queueEvent_jobs (s : State) : (s.queueEvent).jobs = s.jobs := rfl
@[simp] theorem State.queueEvent_cfg (s : State) : (s.queueEvent).cfg = s.cfg := rfl
@[simp] theorem State.queueEvent_commit (s : State) : (s.queueEvent).commit = s.commit := rfl
@[simp] theorem State.queueEvent_sig (s : State) : (s.queueEvent).sig = s.sig := rfl
@[simp] theorem State.queueEvent_cmd (s : State) : (s.queueEvent).cmd = s.cmd := rfl
@[simp] theorem State.queueEvent_ret (s : State) : (s.queueEvent).ret = { s.ret with own := s.ret.own ++ [.event s.eventMessage] } := rfl
@[simp] theorem State.queueEvent_events (s : State) : (s.queueEvent).events = { s.events with reported := s.events.reported ||| s.events.latched } := rfl
@[simp] theorem State.queueEvent_creditDue (s : State) : (s.queueEvent).creditDue = s.creditDue := rfl
@[simp] theorem State.queueEvent_address (s : State) : (s.queueEvent).address = s.address := rfl
@[simp] theorem State.queueEvent_resetHeld (s : State) : (s.queueEvent).resetHeld = s.resetHeld := rfl
@[simp] theorem State.queueEvent_downOut (s : State) : (s.queueEvent).downOut = s.downOut := rfl
@[simp] theorem State.queueEvent_downHanded (s : State) : (s.queueEvent).downHanded = s.downHanded := rfl
@[simp] theorem State.queueEvent_upOut (s : State) : (s.queueEvent).upOut = s.upOut := rfl
@[simp] theorem State.queueEvent_reads (s : State) : (s.queueEvent).reads = s.reads := rfl
@[simp] theorem State.queueEvent_abandons (s : State) : (s.queueEvent).abandons = s.abandons := rfl
@[simp] theorem State.queueEvent_resets (s : State) : (s.queueEvent).resets = s.resets := rfl
@[simp] theorem State.queueEvent_pending (s : State) : (s.queueEvent).pending = s.pending := rfl

/-! ### The test of R157 -/

@[simp] theorem State.reportEvents_rx (s : State) : (s.reportEvents).rx = s.rx := by
  unfold State.reportEvents; split <;> rfl
@[simp] theorem State.reportEvents_pix (s : State) : (s.reportEvents).pix = s.pix := by
  unfold State.reportEvents; split <;> rfl
@[simp] theorem State.reportEvents_mem (s : State) : (s.reportEvents).mem = s.mem := by
  unfold State.reportEvents; split <;> rfl
@[simp] theorem State.reportEvents_banks (s : State) : (s.reportEvents).banks = s.banks := by
  unfold State.reportEvents; split <;> rfl
@[simp] theorem State.reportEvents_jobs (s : State) : (s.reportEvents).jobs = s.jobs := by
  unfold State.reportEvents; split <;> rfl
@[simp] theorem State.reportEvents_cfg (s : State) : (s.reportEvents).cfg = s.cfg := by
  unfold State.reportEvents; split <;> rfl
@[simp] theorem State.reportEvents_commit (s : State) : (s.reportEvents).commit = s.commit := by
  unfold State.reportEvents; split <;> rfl
@[simp] theorem State.reportEvents_sig (s : State) : (s.reportEvents).sig = s.sig := by
  unfold State.reportEvents; split <;> rfl
@[simp] theorem State.reportEvents_cmd (s : State) : (s.reportEvents).cmd = s.cmd := by
  unfold State.reportEvents; split <;> rfl
@[simp] theorem State.reportEvents_ret (s : State) : (s.reportEvents).ret = if s.eventDue then { s.ret with own := s.ret.own ++ [.event s.eventMessage] } else s.ret := by
  unfold State.reportEvents; split <;> rfl
@[simp] theorem State.reportEvents_events (s : State) : (s.reportEvents).events = if s.eventDue then { s.events with reported := s.events.reported ||| s.events.latched } else s.events := by
  unfold State.reportEvents; split <;> rfl
@[simp] theorem State.reportEvents_creditDue (s : State) : (s.reportEvents).creditDue = s.creditDue := by
  unfold State.reportEvents; split <;> rfl
@[simp] theorem State.reportEvents_address (s : State) : (s.reportEvents).address = s.address := by
  unfold State.reportEvents; split <;> rfl
@[simp] theorem State.reportEvents_resetHeld (s : State) : (s.reportEvents).resetHeld = s.resetHeld := by
  unfold State.reportEvents; split <;> rfl
@[simp] theorem State.reportEvents_downOut (s : State) : (s.reportEvents).downOut = s.downOut := by
  unfold State.reportEvents; split <;> rfl
@[simp] theorem State.reportEvents_downHanded (s : State) : (s.reportEvents).downHanded = s.downHanded := by
  unfold State.reportEvents; split <;> rfl
@[simp] theorem State.reportEvents_upOut (s : State) : (s.reportEvents).upOut = s.upOut := by
  unfold State.reportEvents; split <;> rfl
@[simp] theorem State.reportEvents_reads (s : State) : (s.reportEvents).reads = s.reads := by
  unfold State.reportEvents; split <;> rfl
@[simp] theorem State.reportEvents_abandons (s : State) : (s.reportEvents).abandons = s.abandons := by
  unfold State.reportEvents; split <;> rfl
@[simp] theorem State.reportEvents_resets (s : State) : (s.reportEvents).resets = s.resets := by
  unfold State.reportEvents; split <;> rfl
@[simp] theorem State.reportEvents_pending (s : State) : (s.reportEvents).pending = s.pending := by
  unfold State.reportEvents; split <;> rfl

/-! ### A job joins the queue (R46) -/

@[simp] theorem State.addJob_rx (s : State) (job : Job) : (s.addJob job).rx = s.rx := rfl
@[simp] theorem State.addJob_pix (s : State) (job : Job) : (s.addJob job).pix = s.pix := rfl
@[simp] theorem State.addJob_mem (s : State) (job : Job) : (s.addJob job).mem = s.mem := rfl
@[simp] theorem State.addJob_banks (s : State) (job : Job) : (s.addJob job).banks = s.banks := rfl
@[simp] theorem State.addJob_jobs (s : State) (job : Job) : (s.addJob job).jobs = s.jobs ++ [job] := rfl
@[simp] theorem State.addJob_cfg (s : State) (job : Job) : (s.addJob job).cfg = s.cfg := rfl
@[simp] theorem State.addJob_commit (s : State) (job : Job) : (s.addJob job).commit = s.commit := rfl
@[simp] theorem State.addJob_sig (s : State) (job : Job) : (s.addJob job).sig = s.sig := rfl
@[simp] theorem State.addJob_cmd (s : State) (job : Job) : (s.addJob job).cmd = s.cmd := rfl
@[simp] theorem State.addJob_ret (s : State) (job : Job) : (s.addJob job).ret = s.ret := rfl
@[simp] theorem State.addJob_events (s : State) (job : Job) : (s.addJob job).events = s.events := rfl
@[simp] theorem State.addJob_creditDue (s : State) (job : Job) : (s.addJob job).creditDue = s.creditDue := rfl
@[simp] theorem State.addJob_address (s : State) (job : Job) : (s.addJob job).address = s.address := rfl
@[simp] theorem State.addJob_resetHeld (s : State) (job : Job) : (s.addJob job).resetHeld = s.resetHeld := rfl
@[simp] theorem State.addJob_downOut (s : State) (job : Job) : (s.addJob job).downOut = s.downOut := rfl
@[simp] theorem State.addJob_downHanded (s : State) (job : Job) : (s.addJob job).downHanded = s.downHanded := rfl
@[simp] theorem State.addJob_upOut (s : State) (job : Job) : (s.addJob job).upOut = s.upOut := rfl
@[simp] theorem State.addJob_reads (s : State) (job : Job) : (s.addJob job).reads = s.reads := rfl
@[simp] theorem State.addJob_abandons (s : State) (job : Job) : (s.addJob job).abandons = s.abandons := rfl
@[simp] theorem State.addJob_resets (s : State) (job : Job) : (s.addJob job).resets = s.resets := rfl
@[simp] theorem State.addJob_pending (s : State) (job : Job) : (s.addJob job).pending = s.pending := rfl

/-! ### The running job leaves the queue (R46) -/

@[simp] theorem State.endJob_rx (s : State) : (s.endJob).rx = s.rx := rfl
@[simp] theorem State.endJob_pix (s : State) : (s.endJob).pix = s.pix := rfl
@[simp] theorem State.endJob_mem (s : State) : (s.endJob).mem = s.mem := rfl
@[simp] theorem State.endJob_banks (s : State) : (s.endJob).banks = s.banks := rfl
@[simp] theorem State.endJob_jobs (s : State) : (s.endJob).jobs = s.jobs.tail := rfl
@[simp] theorem State.endJob_cfg (s : State) : (s.endJob).cfg = s.cfg := rfl
@[simp] theorem State.endJob_commit (s : State) : (s.endJob).commit = s.commit := rfl
@[simp] theorem State.endJob_sig (s : State) : (s.endJob).sig = s.sig := rfl
@[simp] theorem State.endJob_cmd (s : State) : (s.endJob).cmd = s.cmd := rfl
@[simp] theorem State.endJob_ret (s : State) : (s.endJob).ret = s.ret := rfl
@[simp] theorem State.endJob_events (s : State) : (s.endJob).events = s.events := rfl
@[simp] theorem State.endJob_creditDue (s : State) : (s.endJob).creditDue = s.creditDue := rfl
@[simp] theorem State.endJob_address (s : State) : (s.endJob).address = s.address := rfl
@[simp] theorem State.endJob_resetHeld (s : State) : (s.endJob).resetHeld = s.resetHeld := rfl
@[simp] theorem State.endJob_downOut (s : State) : (s.endJob).downOut = s.downOut := rfl
@[simp] theorem State.endJob_downHanded (s : State) : (s.endJob).downHanded = s.downHanded := rfl
@[simp] theorem State.endJob_upOut (s : State) : (s.endJob).upOut = s.upOut := rfl
@[simp] theorem State.endJob_reads (s : State) : (s.endJob).reads = s.reads := rfl
@[simp] theorem State.endJob_abandons (s : State) : (s.endJob).abandons = s.abandons := rfl
@[simp] theorem State.endJob_resets (s : State) : (s.endJob).resets = s.resets := rfl
@[simp] theorem State.endJob_pending (s : State) : (s.endJob).pending = s.pending := rfl

/-! ### The signal shown by a packet (R124, R132) -/

@[simp] theorem State.signalPresent_rx (s : State) : (s.signalPresent).rx = s.rx.seen := by
  unfold State.signalPresent; split <;> simp_all [LaneReceiver.seen]
@[simp] theorem State.signalPresent_pix (s : State) : (s.signalPresent).pix = s.pix := by
  unfold State.signalPresent; split <;> rfl
@[simp] theorem State.signalPresent_mem (s : State) : (s.signalPresent).mem = s.mem := by
  unfold State.signalPresent; split <;> rfl
@[simp] theorem State.signalPresent_banks (s : State) : (s.signalPresent).banks = s.banks := by
  unfold State.signalPresent; split <;> rfl
@[simp] theorem State.signalPresent_jobs (s : State) : (s.signalPresent).jobs = s.jobs := by
  unfold State.signalPresent; split <;> rfl
@[simp] theorem State.signalPresent_cfg (s : State) : (s.signalPresent).cfg = s.cfg := by
  unfold State.signalPresent; split <;> rfl
@[simp] theorem State.signalPresent_commit (s : State) : (s.signalPresent).commit = s.commit := by
  unfold State.signalPresent; split <;> rfl
@[simp] theorem State.signalPresent_sig (s : State) : (s.signalPresent).sig = s.sig := by
  unfold State.signalPresent; split <;> rfl
@[simp] theorem State.signalPresent_cmd (s : State) : (s.signalPresent).cmd = s.cmd := by
  unfold State.signalPresent; split <;> rfl
@[simp] theorem State.signalPresent_ret (s : State) : (s.signalPresent).ret = s.ret := by
  unfold State.signalPresent; split <;> rfl
@[simp] theorem State.signalPresent_events (s : State) : (s.signalPresent).events = if s.rx.state = .noSignal then s.events.raise .signalFound else s.events := by
  unfold State.signalPresent; split <;> simp_all
@[simp] theorem State.signalPresent_creditDue (s : State) : (s.signalPresent).creditDue = s.creditDue := by
  unfold State.signalPresent; split <;> rfl
@[simp] theorem State.signalPresent_address (s : State) : (s.signalPresent).address = s.address := by
  unfold State.signalPresent; split <;> rfl
@[simp] theorem State.signalPresent_resetHeld (s : State) : (s.signalPresent).resetHeld = s.resetHeld := by
  unfold State.signalPresent; split <;> rfl
@[simp] theorem State.signalPresent_downOut (s : State) : (s.signalPresent).downOut = s.downOut := by
  unfold State.signalPresent; split <;> rfl
@[simp] theorem State.signalPresent_downHanded (s : State) : (s.signalPresent).downHanded = s.downHanded := by
  unfold State.signalPresent; split <;> rfl
@[simp] theorem State.signalPresent_upOut (s : State) : (s.signalPresent).upOut = s.upOut := by
  unfold State.signalPresent; split <;> rfl
@[simp] theorem State.signalPresent_reads (s : State) : (s.signalPresent).reads = s.reads := by
  unfold State.signalPresent; split <;> rfl
@[simp] theorem State.signalPresent_abandons (s : State) : (s.signalPresent).abandons = s.abandons := by
  unfold State.signalPresent; split <;> rfl
@[simp] theorem State.signalPresent_resets (s : State) : (s.signalPresent).resets = s.resets := by
  unfold State.signalPresent; split <;> rfl
@[simp] theorem State.signalPresent_pending (s : State) : (s.signalPresent).pending = s.pending := by
  unfold State.signalPresent; split <;> rfl

/-! ### Kinds latched, as the statements name it -/

@[simp] theorem State.latch_rx (s : State) (kinds : BitVec 11) : (s.latch kinds).rx = s.rx := rfl
@[simp] theorem State.latch_pix (s : State) (kinds : BitVec 11) : (s.latch kinds).pix = s.pix := rfl
@[simp] theorem State.latch_mem (s : State) (kinds : BitVec 11) : (s.latch kinds).mem = s.mem := rfl
@[simp] theorem State.latch_banks (s : State) (kinds : BitVec 11) : (s.latch kinds).banks = s.banks := rfl
@[simp] theorem State.latch_jobs (s : State) (kinds : BitVec 11) : (s.latch kinds).jobs = s.jobs := rfl
@[simp] theorem State.latch_cfg (s : State) (kinds : BitVec 11) : (s.latch kinds).cfg = s.cfg := rfl
@[simp] theorem State.latch_commit (s : State) (kinds : BitVec 11) : (s.latch kinds).commit = s.commit := rfl
@[simp] theorem State.latch_sig (s : State) (kinds : BitVec 11) : (s.latch kinds).sig = s.sig := rfl
@[simp] theorem State.latch_cmd (s : State) (kinds : BitVec 11) : (s.latch kinds).cmd = s.cmd := rfl
@[simp] theorem State.latch_ret (s : State) (kinds : BitVec 11) : (s.latch kinds).ret = s.ret := rfl
@[simp] theorem State.latch_events (s : State) (kinds : BitVec 11) : (s.latch kinds).events = { s.events with latched := s.events.latched ||| kinds } := rfl
@[simp] theorem State.latch_creditDue (s : State) (kinds : BitVec 11) : (s.latch kinds).creditDue = s.creditDue := rfl
@[simp] theorem State.latch_address (s : State) (kinds : BitVec 11) : (s.latch kinds).address = s.address := rfl
@[simp] theorem State.latch_resetHeld (s : State) (kinds : BitVec 11) : (s.latch kinds).resetHeld = s.resetHeld := rfl
@[simp] theorem State.latch_downOut (s : State) (kinds : BitVec 11) : (s.latch kinds).downOut = s.downOut := rfl
@[simp] theorem State.latch_downHanded (s : State) (kinds : BitVec 11) : (s.latch kinds).downHanded = s.downHanded := rfl
@[simp] theorem State.latch_upOut (s : State) (kinds : BitVec 11) : (s.latch kinds).upOut = s.upOut := rfl
@[simp] theorem State.latch_reads (s : State) (kinds : BitVec 11) : (s.latch kinds).reads = s.reads := rfl
@[simp] theorem State.latch_abandons (s : State) (kinds : BitVec 11) : (s.latch kinds).abandons = s.abandons := rfl
@[simp] theorem State.latch_resets (s : State) (kinds : BitVec 11) : (s.latch kinds).resets = s.resets := rfl
@[simp] theorem State.latch_pending (s : State) (kinds : BitVec 11) : (s.latch kinds).pending = s.pending := rfl

/-! ### The head command taken, as the statements name it -/

@[simp] theorem State.headTaken_rx (s : State) : (s.headTaken).rx = s.rx := rfl
@[simp] theorem State.headTaken_pix (s : State) : (s.headTaken).pix = s.pix := rfl
@[simp] theorem State.headTaken_mem (s : State) : (s.headTaken).mem = s.mem := rfl
@[simp] theorem State.headTaken_banks (s : State) : (s.headTaken).banks = s.banks := rfl
@[simp] theorem State.headTaken_jobs (s : State) : (s.headTaken).jobs = s.jobs := rfl
@[simp] theorem State.headTaken_cfg (s : State) : (s.headTaken).cfg = s.cfg := rfl
@[simp] theorem State.headTaken_commit (s : State) : (s.headTaken).commit = s.commit := rfl
@[simp] theorem State.headTaken_sig (s : State) : (s.headTaken).sig = s.sig := rfl
@[simp] theorem State.headTaken_cmd (s : State) : (s.headTaken).cmd = { s.cmd with queue := s.cmd.queue.tail, slots := s.cmd.slots + 1, waiting := false } := rfl
@[simp] theorem State.headTaken_ret (s : State) : (s.headTaken).ret = s.ret := rfl
@[simp] theorem State.headTaken_events (s : State) : (s.headTaken).events = s.events := rfl
@[simp] theorem State.headTaken_creditDue (s : State) : (s.headTaken).creditDue = s.creditDue := rfl
@[simp] theorem State.headTaken_address (s : State) : (s.headTaken).address = s.address := rfl
@[simp] theorem State.headTaken_resetHeld (s : State) : (s.headTaken).resetHeld = s.resetHeld := rfl
@[simp] theorem State.headTaken_downOut (s : State) : (s.headTaken).downOut = s.downOut := rfl
@[simp] theorem State.headTaken_downHanded (s : State) : (s.headTaken).downHanded = s.downHanded := rfl
@[simp] theorem State.headTaken_upOut (s : State) : (s.headTaken).upOut = s.upOut := rfl
@[simp] theorem State.headTaken_reads (s : State) : (s.headTaken).reads = s.reads := rfl
@[simp] theorem State.headTaken_abandons (s : State) : (s.headTaken).abandons = s.abandons := rfl
@[simp] theorem State.headTaken_resets (s : State) : (s.headTaken).resets = s.resets := rfl
@[simp] theorem State.headTaken_pending (s : State) : (s.headTaken).pending = s.pending := rfl

/-! ### The bits of the kinds (Table 11.8-2) -/

@[simp] theorem EventKind.set_linkError : EventKind.linkError.set = 0x001 := rfl
@[simp] theorem EventKind.set_frameBroken : EventKind.frameBroken.set = 0x002 := rfl
@[simp] theorem EventKind.set_signalLost : EventKind.signalLost.set = 0x004 := rfl
@[simp] theorem EventKind.set_signalFound : EventKind.signalFound.set = 0x008 := rfl
@[simp] theorem EventKind.set_commitApplied : EventKind.commitApplied.set = 0x010 := rfl
@[simp] theorem EventKind.set_commitConfirmed : EventKind.commitConfirmed.set = 0x020 := rfl
@[simp] theorem EventKind.set_rolledBack : EventKind.rolledBack.set = 0x040 := rfl
@[simp] theorem EventKind.set_windowMismatch : EventKind.windowMismatch.set = 0x080 := rfl
@[simp] theorem EventKind.set_fallbackEntered : EventKind.fallbackEntered.set = 0x100 := rfl
@[simp] theorem EventKind.set_bankFault : EventKind.bankFault.set = 0x200 := rfl
@[simp] theorem EventKind.set_commandsDropped : EventKind.commandsDropped.set = 0x400 := rfl

/-! ### The operations under the names the statements use -/

theorem State.withReply_eq_reply (s : State) (tag code : Byte) (status : Status) (payload : List Byte) :
    s.withReply tag code status payload = s.reply tag code status payload := rfl

theorem State.sentDown_eq_forward (s : State) (bytes : List Byte) : s.sentDown bytes = s.forward bytes := rfl

theorem State.sentUp_eq_sendUp (s : State) (bytes : List Byte) : s.sentUp bytes = s.sendUp bytes := rfl

theorem State.raise_eq_latch (s : State) (k : EventKind) : s.raise k = s.latch k.set := rfl

theorem State.raiseIf_eq_latch (s : State) (cause : Bool) (k : EventKind) :
    s.raiseIf cause k = s.latch (if cause then k.set else 0) := by
  cases cause <;> simp [State.raiseIf, State.raise_eq_latch, State.latch]

theorem State.signalPresent_eq_seen (s : State) : s.signalPresent = s.seen := by
  unfold State.signalPresent State.seen LaneReceiver.seen LaneReceiver.foundKinds State.latch State.raise
  split <;> simp_all [EventRegister.raise, EventKind.set, EventKind.bit]

theorem State.linkError_eq_latch (s : State) :
    s.linkError = { s with rx := { s.rx with linkErrors := saturate16 s.rx.linkErrors } }.latch 0x001 := rfl

theorem State.frameBroken_eq_latch (s : State) :
    s.frameBroken = { s with rx := { s.rx with brokenFrames := saturate16 s.rx.brokenFrames } }.latch 0x002 := rfl

end Sys2Proof.Machine
end

