-- ==== Sys2Proof/Laws/Frames.lean ====
section
/-! SUPPORT. What the operations at the start, the lines and the end of a frame can do, block by block (R9, R80, R81, R98,
R106 to R112, R116 to R118), what a line feeds to the signatures, and what the test of R157 leaves. -/

namespace Sys2Proof.Machine

/-! ### The test of R157 -/

@[simp] theorem State.reportEvents_latched (s : State) : s.reportEvents.events.latched = s.events.latched := by
  unfold State.reportEvents; split <;> rfl

@[simp] theorem State.reportEvents_masked (s : State) : s.reportEvents.events.masked = s.events.masked := by
  unfold State.reportEvents; split <;> rfl

theorem State.reportEvents_ret_own (s : State) : s.reportEvents.ret = { s.ret with own := s.reportEvents.ret.own } := by
  unfold State.reportEvents; split <;> rfl

theorem State.own_prefix_reportEvents (s : State) : s.ret.own <+: s.reportEvents.ret.own := by
  unfold State.reportEvents; split
  · exact List.prefix_append ..
  · exact List.prefix_refl _

theorem State.reportEvents_of_settled {s : State} (h : s.eventDue = false) : s.reportEvents = s := by
  unfold State.reportEvents; simp [h]

/-- The test leaves no EV due (R155, R157). -/
theorem State.reportEvents_settled (s : State) : s.reportEvents.eventDue = false := by
  by_cases h : s.eventDue = true
  · rw [State.reportEvents, if_pos h]; simp [State.queueEvent, State.eventDue, State.eventSlotTaken, OwnMessage.isEvent]
  · rw [State.reportEvents_of_settled (by simpa using h)]; simpa using h

/-- The test looks at the event register and the own queue alone. -/
theorem State.eventDue_congr {s t : State} (he : s.events = t.events) (ho : s.ret.own = t.ret.own) :
    s.eventDue = t.eventDue := by
  simp [State.eventDue, State.eventSlotTaken, he, ho]

/-- What the test leaves depends on the event register, the return transmitter and the snapshot alone. -/
theorem State.reportEvents_congr {s t : State} (he : s.events = t.events) (hr : s.ret = t.ret)
    (hm : s.eventMessage = t.eventMessage) :
    s.reportEvents.ret = t.reportEvents.ret ∧ s.reportEvents.events = t.reportEvents.events := by
  unfold State.reportEvents
  rw [State.eventDue_congr he (by rw [hr])]
  split <;> simp [State.queueEvent, he, hr, hm]

/-- An EV in the own queue or not, the snapshot is the same. -/
theorem State.reportEvents_eventMessage (s : State) : s.reportEvents.eventMessage = s.eventMessage := by
  unfold State.reportEvents; split <;> rfl

/-! ### What the operations of a frame keep -/

theorem FrameKeeps.refl (s : State) : FrameKeeps s s :=
  ⟨rfl, rfl, rfl, rfl, rfl, rfl, rfl, List.prefix_refl _, rfl, rfl, rfl, rfl, rfl⟩

theorem FrameKeeps.trans {s t u : State} (a : FrameKeeps s t) (b : FrameKeeps t u) : FrameKeeps s u where
  mem := b.mem.trans a.mem
  jobs := b.jobs.trans a.jobs
  cmd := b.cmd.trans a.cmd
  masked := b.masked.trans a.masked
  address := b.address.trans a.address
  upOut := b.upOut.trans a.upOut
  ret := by rw [b.ret, a.ret]
  own := a.own.trans b.own
  held := b.held.trans a.held
  reads := b.reads.trans a.reads
  abandons := b.abandons.trans a.abandons
  resets := b.resets.trans a.resets
  pending := b.pending.trans a.pending

/-- A change of the receiver, the pixel path, the bank map, the configuration, the commit unit, the signature unit, the
kinds latched, the announcement or the forward lane keeps the rest. -/
theorem FrameKeeps.of_eq {s t : State} (h : t = { s with
    rx := t.rx, pix := t.pix, banks := t.banks, cfg := t.cfg, commit := t.commit, sig := t.sig,
    events := { s.events with latched := t.events.latched, reported := t.events.reported }, creditDue := t.creditDue,
    downOut := t.downOut, downHanded := t.downHanded }) : FrameKeeps s t := by
  rw [h]; exact ⟨rfl, rfl, rfl, rfl, rfl, rfl, rfl, List.prefix_refl _, rfl, rfl, rfl, rfl, rfl⟩

theorem FrameKeeps.reportEvents (s : State) : FrameKeeps s s.reportEvents :=
  ⟨by simp, by simp, by simp, s.reportEvents_masked, by simp, by simp, s.reportEvents_ret_own, s.own_prefix_reportEvents, by simp,
    by simp, by simp, by simp, by simp⟩

theorem FrameKeeps.reply (s : State) (tag code : Byte) (status : Status) (payload : List Byte) :
    FrameKeeps s (s.reply tag code status payload) :=
  ⟨rfl, rfl, rfl, rfl, rfl, rfl, rfl, List.prefix_append .., rfl, rfl, rfl, rfl, rfl⟩

theorem FrameKeeps.raise (s : State) (k : EventKind) : FrameKeeps s (s.raise k) := .of_eq rfl

theorem FrameKeeps.frameBroken (s : State) : FrameKeeps s s.frameBroken := .of_eq rfl

theorem FrameKeeps.forward (s : State) (bytes : List Byte) : FrameKeeps s (s.forward bytes) := .of_eq rfl

theorem FrameKeeps.signalPresent (s : State) : FrameKeeps s s.signalPresent := by
  unfold State.signalPresent; split <;> exact .of_eq rfl

/-! ### The pending mode (R9) -/

theorem State.applyPendingMode_none {s : State} (h : s.pix.pendingMode = none) : s.applyPendingMode = s := by
  unfold State.applyPendingMode; rw [h]

theorem State.applyPendingMode_some {s : State} {m : Mode} (h : s.pix.pendingMode = some m) :
    s.applyPendingMode = { s with pix := ⟨m, none⟩ }.raiseIf (decide (m = Mode.fallback)) .fallbackEntered := by
  unfold State.applyPendingMode; rw [h]

/-- The mode changes, and FALLBACK_ENTERED may be raised; nothing else. -/
theorem State.applyPendingMode_eq (s : State) :
    s.applyPendingMode = { s with pix := s.applyPendingMode.pix, events := { s.events with
      latched := s.applyPendingMode.events.latched } } := by
  unfold State.applyPendingMode
  split
  · rfl
  · unfold State.raiseIf; split <;> rfl

/-! ### The commit unit at a boundary (R80, R81, R98) -/

theorem State.commitBoundary_still {s : State} (f : Half)
    (h : s.commit.state = .idle ∨ s.commit.state = .guarding ∨
      (s.commit.state = .pending ∧ ∀ p, s.commit.pendingCommit = some p → p.target.satisfiedBy f = false)) :
    s.commitBoundary f = s := by
  unfold State.commitBoundary
  rcases h with h | h | ⟨h, hp⟩ <;> rw [h]
  cases e : s.commit.pendingCommit with
  | none => rfl
  | some p => simp [hp p e]

theorem State.commitBoundary_applies {s : State} {f : Half} {p : PendingCommit} (h : s.commit.state = .pending)
    (hp : s.commit.pendingCommit = some p) (hf : p.target.satisfiedBy f = true) : s.commitBoundary f = s.applyCommit p := by
  unfold State.commitBoundary; rw [h]; simp [hp, hf]

theorem State.commitBoundary_rollsBack {s : State} (f : Half) (h : s.commit.state = .rollbackPending) :
    s.commitBoundary f = s.applyRollback := by
  unfold State.commitBoundary; rw [h]

/-- Banks, configuration, commit unit, counts and kinds can change; nothing else. -/
theorem State.commitBoundary_eq (s : State) (f : Half) :
    s.commitBoundary f = { s with
      banks := (s.commitBoundary f).banks, cfg := (s.commitBoundary f).cfg, commit := (s.commitBoundary f).commit,
      sig := (s.commitBoundary f).sig, events := { s.events with latched := (s.commitBoundary f).events.latched } } := by
  have raised : ∀ (t : State) (k : EventKind), t.raise k = { t with events := { t.events with
      latched := (t.raise k).events.latched } } := fun _ _ => rfl
  unfold State.commitBoundary
  split
  · rfl
  · rfl
  · unfold State.applyRollback; rw [raised]
  · split
    · rfl
    · split
      · unfold State.applyCommit; rw [raised]
      · rfl

/-- The signature unit keeps its state, or has its counts set to 0 (R113). -/
theorem State.commitBoundary_sig (s : State) (f : Half) :
    (s.commitBoundary f).sig = s.sig ∨ (s.commitBoundary f).sig = s.sig.clearCounts := by
  unfold State.commitBoundary
  split
  · exact .inl rfl
  · exact .inl rfl
  · exact .inr rfl
  · split
    · exact .inl rfl
    · split
      · exact .inr rfl
      · exact .inl rfl

theorem SignatureUnit.clearCounts_checker (u : SignatureUnit) (k : Fin 4) :
    u.clearCounts.checkers[k.val] = { u.checkers[k.val] with count := 0 } := by simp [SignatureUnit.clearCounts]

/-! ### The signature unit (R106, R116 to R118) -/

theorem onChecked_get (c : Configuration) (v : Vector WindowChecker 4)
    (f : WindowRecord → WindowChecker → WindowChecker) (k : Fin 4) :
    (onChecked c v f)[k.val] =
      if c.windows[k.val].mode = .check then f c.windows[k.val] v[k.val] else v[k.val] := by
  fin_cases k <;> rfl

/-- Running signatures and the capture can change; nothing else. -/
theorem State.signatureFrameStart_eq (s : State) :
    s.signatureFrameStart = { s with sig := { s.sig with
      checkers := s.signatureFrameStart.sig.checkers, capture := s.sig.capture.startFrame } } := rfl

/-- Checkers, mismatch set, a fallback request, an outcome handed over and WINDOW_MISMATCH; nothing else (R107). -/
theorem State.evaluate_eq (s : State) :
    s.evaluate = { s with
      sig := { s.sig with checkers := s.evaluate.sig.checkers, mismatchSet := s.mismatches },
      pix := { s.pix with pendingMode := s.evaluate.pix.pendingMode },
      commit := { s.commit with handed := s.evaluate.commit.handed },
      events := { s.events with latched := s.evaluate.events.latched } } := by
  unfold State.evaluate State.raiseIf
  simp only
  split <;> split <;> split <;> rfl

theorem State.evaluate_checker (s : State) (k : Fin 4) : s.evaluate.sig.checkers[k.val] = s.judgedChecker k := by
  unfold State.evaluate
  simp only [State.raiseIf_sig]
  fin_cases k <;> rfl

theorem FrameKeeps.brokenAttempt (s : State) (r : CaptureRecord) (again : CaptureRecord → Capture) :
    FrameKeeps s (s.brokenAttempt r again) := by
  unfold State.brokenAttempt
  split
  · exact .of_eq rfl
  · exact .trans (t := { s with sig := { s.sig with capture := .idle } }) (.of_eq rfl) (.reply ..)

theorem FrameKeeps.captureOverrun (s : State) : FrameKeeps s s.captureOverrun := by
  unfold State.captureOverrun; split
  · exact .brokenAttempt ..
  · exact .refl s

theorem FrameKeeps.captureSignalLost (s : State) : FrameKeeps s s.captureSignalLost := by
  unfold State.captureSignalLost; split
  · exact .brokenAttempt ..
  · exact .refl s

theorem FrameKeeps.captureFrameEnd (s : State) (clean : Bool) : FrameKeeps s (s.captureFrameEnd clean) := by
  unfold State.captureFrameEnd
  split
  · split
    · exact .trans (t := { s with sig := { s.sig with capture := .idle } }) (.of_eq rfl) (.reply ..)
    · split
      · exact .trans (t := { s with sig := { s.sig with capture := .idle } }) (.of_eq rfl) (.reply ..)
      · exact .brokenAttempt ..
  · exact .refl s

/-- A capture attempt that ends changes the capture and the own queue alone (R117). -/
theorem State.captureFrameEnd_eq (s : State) (clean : Bool) :
    s.captureFrameEnd clean = { s with
      sig := { s.sig with capture := (s.captureFrameEnd clean).sig.capture },
      ret := { s.ret with own := (s.captureFrameEnd clean).ret.own } } := by
  unfold State.captureFrameEnd State.brokenAttempt
  split
  · split
    · rfl
    · split
      · rfl
      · split <;> rfl
  · rfl

theorem State.captureOverrun_eq (s : State) :
    s.captureOverrun = { s with
      sig := { s.sig with capture := s.captureOverrun.sig.capture },
      ret := { s.ret with own := s.captureOverrun.ret.own } } := by
  unfold State.captureOverrun State.brokenAttempt
  split
  · split <;> rfl
  · rfl

theorem State.captureSignalLost_eq (s : State) :
    s.captureSignalLost = { s with
      sig := { s.sig with capture := s.captureSignalLost.sig.capture },
      ret := { s.ret with own := s.captureSignalLost.ret.own } } := by
  unfold State.captureSignalLost State.brokenAttempt
  split
  · split <;> rfl
  · rfl

theorem FrameKeeps.applyPendingMode (s : State) : FrameKeeps s s.applyPendingMode := by
  rw [State.applyPendingMode_eq]; exact .of_eq rfl

theorem FrameKeeps.commitBoundary (s : State) (f : Half) : FrameKeeps s (s.commitBoundary f) := by
  rw [State.commitBoundary_eq]; exact .of_eq rfl

theorem FrameKeeps.signatureFrameStart (s : State) : FrameKeeps s s.signatureFrameStart := .of_eq rfl

theorem FrameKeeps.evaluate (s : State) : FrameKeeps s s.evaluate := by
  rw [State.evaluate_eq]; exact .of_eq rfl

/-! ### What a line feeds to the signatures (R104, R106, R116) -/

/-- Picking positions `x0` to `x1` of a numbered list is dropping and taking. -/
theorem positions_eq (x0 x1 : Nat) (pixels : List Triple) (i : Nat) :
    ((pixels.zipIdx i).filter fun px => decide (x0 ≤ px.2 ∧ px.2 ≤ x1)).map Prod.fst =
      (pixels.drop (x0 - i)).take (x1 + 1 - max x0 i) := by
  induction pixels generalizing i with
  | nil => simp
  | cons a l ih =>
    rw [List.zipIdx_cons, List.filter_cons]
    by_cases h1 : x0 ≤ i
    · rw [show x0 - i = 0 by omega, Nat.max_eq_right h1]
      have hi := ih (i + 1)
      rw [show x0 - (i + 1) = 0 by omega, Nat.max_eq_right (by omega)] at hi
      by_cases h2 : i ≤ x1
      · rw [show x1 + 1 - i = x1 + 1 - (i + 1) + 1 by omega]
        simpa [h1, h2] using hi
      · rw [show x1 + 1 - (i + 1) = 0 by omega] at hi
        rw [show x1 + 1 - i = 0 by omega]
        simpa [h1, h2] using hi
    · have hi := ih (i + 1)
      rw [Nat.max_eq_left (by omega)] at hi
      rw [Nat.max_eq_left (by omega), show x0 - i = x0 - (i + 1) + 1 by omega]
      simpa [h1] using hi

/-- A line feeds a signature with the pixels of its rectangle that it holds. -/
theorem feedLine_eq (r : Rect) (y : Nat) (pixels : List Triple) (reg : Word) :
    feedLine r y pixels reg = crc32Triples reg (lineFed r y pixels) := by
  unfold feedLine lineFed
  split
  · rw [positions_eq]; simp
  · rfl

/-- A frame line at the two taps (R21, R106, R116). -/
theorem SignatureUnit.tapLine_fed (s : State) (y : Nat) (input output : List Triple) :
    SignaturesFed s y input output (s.sig.tapLine s.cfg.active y input output) where
  windows k := by
    simp only [SignatureUnit.tapLine, onChecked_get, feedLine_eq]
  running r signature h := by
    cases e : r.point <;> simp [SignatureUnit.tapLine, h, e, feedLine_eq]
  still h := by
    unfold SignatureUnit.tapLine
    cases e : s.sig.capture with
    | running r sig => exact absurd e (h r sig)
    | idle => rfl
    | armed r => rfl
  mismatchSet := rfl

/-! ### The claims of a boundary, an evaluation and a line's lookups (R125, R107, R20; log 12, log 38) -/

/-- A frame boundary keeps the rest of the part (R125). -/
theorem FrameKeeps.frameBoundary (s : State) (frame width height : Half) :
    FrameKeeps s (s.frameBoundary frame width height) := by
  unfold State.frameBoundary
  refine .trans ?_ (.signatureFrameStart _)
  refine .trans ?_ (.reportEvents _)
  refine .trans ?_ (.commitBoundary _ _)
  refine .trans ?_ (.reportEvents _)
  refine .trans ?_ (.applyPendingMode _)
  refine .trans ?_ (.reportEvents _)
  exact ⟨rfl, rfl, rfl, rfl, rfl, rfl, rfl, List.prefix_refl _, rfl, rfl, rfl, rfl, rfl⟩

/-- Lookups that met no fault change the read number alone, when the handle records are those before. -/
theorem State.afterLookups_sound {s : State} {l : Lookup} (h : l.firstFault = none) :
    s.afterLookups l = { s with reads := l.reads, banks := { s.banks with handles := l.handles } } := by
  unfold State.afterLookups; rw [h]

/-- With a fault the EV condition is tested on the handle records of the first one. -/
theorem State.afterLookups_faulty {s : State} {l : Lookup} {handles : Vector HandleRecord 10}
    (h : l.firstFault = some handles) :
    s.afterLookups l =
      { (({ s with reads := l.reads, banks := { s.banks with handles := handles } } : State).raise
          .bankFault).reportEvents with banks := { s.banks with handles := l.handles } } := by
  unfold State.afterLookups; rw [h]

end Sys2Proof.Machine
end

