-- ==== Sys2Proof/Laws/Memory.lean ====
section
/-! SUPPORT. The laws of the table memory: reading after a store, the canonical form, sound words, and what each
operation over runs of words leaves (R22, R48, R49, R58). -/

namespace Sys2Proof.Machine

/-! ### One word -/

theorem Memory.at_store_same {m : Memory} (hm : m.wf) (a : Nat) (v : TableWord) : (m.store a v).at a = v := by
  induction m with
  | nil => unfold Memory.store; split <;> simp_all [Memory.at]
  | cons c m ih =>
      obtain ⟨b, w⟩ := c
      have hm' : Memory.wf m := ⟨(List.pairwise_cons.1 hm.1).2, fun c hc => hm.2 c (List.mem_cons_of_mem _ hc)⟩
      have low : ∀ a' ≤ b, Memory.at m a' = unlistedWord := by
        intro a' ha'
        have hlt := (List.pairwise_cons.1 hm.1).1
        clear ih hm hm'
        induction m with
        | nil => rfl
        | cons d m ih =>
            have := hlt d (List.mem_cons_self ..)
            simp only [Memory.at]
            rw [if_neg (by simp only at this; omega)]
            exact ih fun c hc => hlt c (List.mem_cons_of_mem _ hc)
      unfold Memory.store
      split
      · split
        · next h _ => simp only [Memory.at]; rw [if_neg (by omega), low a (by omega)]; simp_all
        · simp [Memory.at]
      · split
        · split
          · next h _ => rw [low a (by omega)]; simp_all
          · simp [Memory.at]
        · simp only [Memory.at]; rw [if_neg (by assumption)]; exact ih hm'

theorem Memory.at_store_other (m : Memory) {a a' : Nat} (v : TableWord) (h : a' ≠ a) :
    (m.store a v).at a' = m.at a' := by
  induction m with
  | nil => unfold Memory.store; split <;> simp [Memory.at, h]
  | cons c m ih =>
      obtain ⟨b, w⟩ := c
      unfold Memory.store
      split
      · split <;> simp [Memory.at, h]
      · split
        · next hab => subst hab; split <;> simp [Memory.at, h]
        · simp [Memory.at, ih]

theorem Memory.mem_store {m : Memory} {a : Nat} {v : TableWord} {c : Nat × TableWord} (h : c ∈ m.store a v) :
    c ∈ m ∨ (c = (a, v) ∧ v ≠ unlistedWord) := by
  induction m with
  | nil =>
      unfold Memory.store at h
      split at h <;> simp_all
  | cons d m ih =>
      obtain ⟨b, w⟩ := d
      unfold Memory.store at h
      split at h
      · split at h
        · exact .inl h
        · rcases List.mem_cons.1 h with h | h
          · exact .inr ⟨h, by assumption⟩
          · exact .inl h
      · split at h
        · split at h
          · exact .inl (List.mem_cons_of_mem _ h)
          · rcases List.mem_cons.1 h with h | h
            · exact .inr ⟨h, by assumption⟩
            · exact .inl (List.mem_cons_of_mem _ h)
        · rcases List.mem_cons.1 h with h | h
          · exact .inl (h ▸ List.mem_cons_self ..)
          · rcases ih h with h | h
            · exact .inl (List.mem_cons_of_mem _ h)
            · exact .inr h

theorem Memory.store_wf {m : Memory} (hm : m.wf) (a : Nat) (v : TableWord) : (m.store a v).wf := by
  refine ⟨?_, fun c hc => (Memory.mem_store hc).elim (hm.2 c) fun ⟨e, hv⟩ => by subst e; exact hv⟩
  have hp := hm.1
  clear hm
  induction m with
  | nil => unfold Memory.store; split <;> simp
  | cons d m ih =>
      obtain ⟨b, w⟩ := d
      obtain ⟨hb, hp'⟩ := List.pairwise_cons.1 hp
      unfold Memory.store
      split
      · next hab =>
          split
          · exact hp
          · refine List.pairwise_cons.2 ⟨fun c hc => ?_, hp⟩
            rcases List.mem_cons.1 hc with rfl | hc
            · exact hab
            · exact Nat.lt_trans hab (hb c hc)
      · split
        · next hab =>
            subst hab
            split
            · exact hp'
            · exact List.pairwise_cons.2 ⟨hb, hp'⟩
        · refine List.pairwise_cons.2 ⟨fun c hc => ?_, ih hp'⟩
          rcases Memory.mem_store hc with hc | ⟨rfl, _⟩
          · exact hb c hc
          · show b < a; omega

theorem Memory.store_sound {m : Memory} (hm : m.Sound) (a : Nat) (t : Triple) : (m.store a (storedWord t)).Sound := by
  intro c hc
  rcases Memory.mem_store hc with hc | ⟨rfl, _⟩
  · exact hm c hc
  · rfl

/-- Every word of a sound memory, listed or not, has right parity. -/
theorem Memory.Sound.at_parity {m : Memory} (hm : m.Sound) (a : Nat) : (m.at a).parity = parityOf (m.at a).values := by
  induction m with
  | nil => simp [Memory.at, unlistedWord, storedWord]
  | cons c m ih =>
      obtain ⟨b, w⟩ := c
      simp only [Memory.at]
      split
      · exact hm (b, w) (List.mem_cons_self ..)
      · exact ih fun d hd => hm d (List.mem_cons_of_mem _ hd)

theorem wordAddr_inj {b b' : Bank} {i i' : Comp} (h : wordAddr b i = wordAddr b' i') : b = b' ∧ i = i' := by
  have := i.isLt
  have := i'.isLt
  simp only [wordAddr, Config.wordsPerBank] at h
  exact ⟨Fin.ext (by omega), BitVec.eq_of_toNat_eq (by omega)⟩

/-- A written word reads back. -/
theorem at_writeWord_same {m : Memory} (hm : m.wf) (b : Bank) (i : Comp) (t : Triple) :
    (writeWord m b i t).at (wordAddr b i) = ⟨t, parityOf t⟩ := Memory.at_store_same hm ..

/-- No other word changes by a write. -/
theorem at_writeWord_other (m : Memory) {b b' : Bank} {i i' : Comp} (t : Triple) (h : b' ≠ b ∨ i' ≠ i) :
    (writeWord m b i t).at (wordAddr b' i') = m.at (wordAddr b' i') :=
  Memory.at_store_other m _ fun e => by obtain ⟨rfl, rfl⟩ := wordAddr_inj e; simp at h

theorem writeWord_wf {m : Memory} (hm : m.wf) (b : Bank) (i : Comp) (t : Triple) : (writeWord m b i t).wf :=
  Memory.store_wf hm ..

theorem writeWord_sound {m : Memory} (hm : m.Sound) (b : Bank) (i : Comp) (t : Triple) : (writeWord m b i t).Sound :=
  Memory.store_sound hm _ t

/-! ### Runs of words -/

theorem ofNat10_inj {k i : Nat} (hk : k < 1024) (hi : i < 1024) (h : BitVec.ofNat 10 k = BitVec.ofNat 10 i) : k = i := by
  have := congrArg BitVec.toNat h
  simp only [BitVec.toNat_ofNat] at this
  omega

theorem zeroWords_wf {m : Memory} (hm : m.wf) (b : Bank) (k : Nat) : (zeroWords m b k).wf := by
  induction k with
  | zero => exact hm
  | succ k ih => exact writeWord_wf ih ..

theorem zeroWords_sound {m : Memory} (hm : m.Sound) (b : Bank) (k : Nat) : (zeroWords m b k).Sound := by
  induction k with
  | zero => exact hm
  | succ k ih => exact writeWord_sound ih _ _ _

theorem at_zeroWords_otherBank (m : Memory) {b b' : Bank} (h : b' ≠ b) (k : Nat) (i : Comp) :
    (zeroWords m b k).at (wordAddr b' i) = m.at (wordAddr b' i) := by
  induction k with
  | zero => rfl
  | succ k ih => rw [zeroWords, at_writeWord_other _ _ (.inl h), ih]

theorem at_zeroWords {m : Memory} (hm : m.wf) (b : Bank) {k : Nat} (hk : k ≤ 1024) {i : Comp} (hi : i.toNat < k) :
    (zeroWords m b k).at (wordAddr b i) = ⟨Triple.zero, parityOf Triple.zero⟩ := by
  induction k with
  | zero => omega
  | succ k ih =>
      rw [zeroWords]
      by_cases e : i = BitVec.ofNat 10 k
      · subst e; exact at_writeWord_same (zeroWords_wf hm b k) ..
      · rw [at_writeWord_other _ _ (.inr e)]
        refine ih (by omega) (Nat.lt_of_le_of_ne (by omega) fun h => e ?_)
        apply BitVec.eq_of_toNat_eq
        rw [BitVec.toNat_ofNat, h]
        omega

theorem copyWords_wf {m : Memory} (hm : m.wf) (source dest : Bank) (k : Nat) : (copyWords m source dest k).wf := by
  induction k with
  | zero => exact hm
  | succ k ih => exact writeWord_wf ih ..

theorem copyWords_sound {m : Memory} (hm : m.Sound) (source dest : Bank) (k : Nat) :
    (copyWords m source dest k).Sound := by
  induction k with
  | zero => exact hm
  | succ k ih => exact writeWord_sound ih _ _ _

theorem at_copyWords_otherBank (m : Memory) (source : Bank) {dest b : Bank} (h : b ≠ dest) (k : Nat) (i : Comp) :
    (copyWords m source dest k).at (wordAddr b i) = m.at (wordAddr b i) := by
  induction k with
  | zero => rfl
  | succ k ih => rw [copyWords, at_writeWord_other _ _ (.inl h), ih]

theorem writeRun_wf {m : Memory} (hm : m.wf) (b : Bank) (start : Nat) (ts : List Triple) : (writeRun m b start ts).wf := by
  induction ts generalizing m start with
  | nil => exact hm
  | cons t ts ih => exact ih (writeWord_wf hm ..) _

theorem writeRun_sound {m : Memory} (hm : m.Sound) (b : Bank) (start : Nat) (ts : List Triple) :
    (writeRun m b start ts).Sound := by
  induction ts generalizing m start with
  | nil => exact hm
  | cons t ts ih => exact ih (writeWord_sound hm _ _ _) _

/-- Outside its run a write of words changes nothing. -/
theorem at_writeRun_outside (m : Memory) {b b' : Bank} {start : Nat} (ts : List Triple) {i : Comp}
    (hs : start + ts.length ≤ 1024) (h : b' ≠ b ∨ i.toNat < start ∨ start + ts.length ≤ i.toNat) :
    (writeRun m b start ts).at (wordAddr b' i) = m.at (wordAddr b' i) := by
  induction ts generalizing m start with
  | nil => rfl
  | cons t ts ih =>
      simp only [List.length_cons] at hs h
      rw [writeRun, ih _ (by omega) (h.imp id fun h => by omega), at_writeWord_other]
      rcases h with h | h
      · exact .inl h
      · refine .inr fun e => ?_
        have := congrArg BitVec.toNat e
        simp only [BitVec.toNat_ofNat] at this
        omega

/-- Inside its run a write of words leaves the words written. -/
theorem at_writeRun_inside {m : Memory} (hm : m.wf) (b : Bank) {start : Nat} {ts : List Triple}
    (hs : start + ts.length ≤ 1024) {j : Nat} {t : Triple} (ht : ts[j]? = some t) :
    (writeRun m b start ts).at (wordAddr b (BitVec.ofNat 10 (start + j))) = ⟨t, parityOf t⟩ := by
  induction ts generalizing m start j with
  | nil => simp at ht
  | cons u ts ih =>
      simp only [List.length_cons] at hs
      rw [writeRun]
      cases j with
      | zero =>
          simp only [List.getElem?_cons_zero, Option.some.injEq] at ht
          subst ht
          rw [at_writeRun_outside _ _ (by omega), Nat.add_zero]
          · exact at_writeWord_same hm ..
          · right; left; simp only [BitVec.toNat_ofNat]; omega
      | succ j =>
          have := ih (writeWord_wf hm b (BitVec.ofNat 10 start) u) (start := start + 1) (by omega)
            (j := j) (by simpa using ht)
          rw [← this, show start + 1 + j = start + (j + 1) by omega]

/-! ### Reads -/

/-- A read without a disturbance, of a sound memory, yields the stored values and no fault (R22). -/
theorem readWord_sound {m : Memory} (hm : m.Sound) (disturb : Nat → Option Triple) (n : Nat) (b : Bank) (i : Comp)
    (h : disturb n = none) : readWord disturb m n b i = ⟨(m.at (wordAddr b i)).values, false⟩ := by
  simp [readWord, h, hm.at_parity]

/-- A read that met no fault yielded the stored values (R22). -/
theorem readWord_values {disturb : Nat → Option Triple} {m : Memory} {n : Nat} {b : Bank} {i : Comp}
    (h : (readWord disturb m n b i).faulty = false) :
    (readWord disturb m n b i).values = (m.at (wordAddr b i)).values := by
  unfold readWord at h ⊢
  cases h' : disturb n <;> simp_all

theorem readRun_eq_map (disturb : Nat → Option Triple) (m : Memory) (b : Bank) (start n count : Nat) :
    readRun disturb m b start n count =
      (List.range count).map fun i => readWord disturb m (n + i) b (BitVec.ofNat 10 (start + i)) := by
  induction count generalizing start n with
  | zero => rfl
  | succ count ih =>
      rw [readRun, ih, List.range_succ_eq_map, List.map_cons, List.map_map]
      simp only [Nat.add_zero, List.cons.injEq, true_and]
      refine List.map_congr_left fun i _ => ?_
      simp only [Function.comp, Nat.succ_eq_add_one]
      rw [show n + (i + 1) = n + 1 + i by omega, show start + (i + 1) = start + 1 + i by omega]

end Sys2Proof.Machine
end

