-- ==== Sys2Proof/Laws/Jobs.lean ====
section
/-! SUPPORT. What the bank engine's passes over a bank can do (R46, R49, R50, R52 to R54), and what stopping and dropping
a job changes (R46, R61, R64). -/

namespace Sys2Proof.Machine

/-! ### Passes of reads (R52 to R54) -/

/-- A pass of reads ends sound, with the CRC-32 of the stored words, or at its first fault. -/
theorem scanFrom_cases (disturb : Nat → Option Triple) (m : Memory) (b : Bank) (i n : Nat) (crc : Word)
    (remaining : Nat) :
    let bad (j : Nat) : Bool := (readWord disturb m (n + j) b (BitVec.ofNat 10 (i + j))).faulty
    ((∀ j < remaining, bad j = false) ∧ scanFrom disturb m b i n crc remaining =
      .sound (crc32Triples crc ((List.range remaining).map fun j => (m.at (wordAddr b (BitVec.ofNat 10 (i + j)))).values))
        (n + remaining)) ∨
    ∃ j < remaining, (∀ k < j, bad k = false) ∧ bad j = true ∧
      scanFrom disturb m b i n crc remaining = .faultAt (i + j) (n + j + 1) := by
  induction remaining generalizing i n crc with
  | zero => exact .inl ⟨fun _ h => absurd h (Nat.not_lt_zero _), rfl⟩
  | succ remaining ih =>
      unfold scanFrom
      cases hf : (readWord disturb m n b (BitVec.ofNat 10 i)).faulty with
      | true => exact .inr ⟨0, by omega, fun _ h => absurd h (Nat.not_lt_zero _), by simpa using hf, by simp [hf]⟩
      | false =>
          simp only [hf, Bool.false_eq_true, if_false]
          have shift : ∀ j, n + 1 + j = n + (j + 1) ∧ i + 1 + j = i + (j + 1) := fun j => by omega
          rcases ih (i + 1) (n + 1) (crc32Triple crc (readWord disturb m n b (BitVec.ofNat 10 i)).values) with
            ⟨good, e⟩ | ⟨j, hj, before, hbad, e⟩
          · refine .inl ⟨fun j hj => ?_, ?_⟩
            · cases j with
              | zero => simpa using hf
              | succ j => have := good j (by omega); beta_reduce at this; rwa [(shift j).1, (shift j).2] at this
            · rw [e, readWord_values hf, List.range_succ_eq_map, List.map_cons, List.map_map,
                show n + 1 + remaining = n + (remaining + 1) by omega]
              simp only [crc32Triples, List.foldl_cons, Nat.add_zero, Function.comp_def, Nat.succ_eq_add_one,
                Nat.add_assoc, Nat.add_comm 1]
          · refine .inr ⟨j + 1, by omega, fun k hk => ?_, ?_, ?_⟩
            · cases k with
              | zero => simpa using hf
              | succ k => have := before k (by omega); beta_reduce at this; rwa [(shift k).1, (shift k).2] at this
            · beta_reduce at hbad; rwa [(shift j).1, (shift j).2] at hbad
            · rw [e, (shift j).2, show n + 1 + j + 1 = n + (j + 1) + 1 by omega]

/-! ### Copying (R49, R50) -/

/-- The memory a COPY leaves, however it ends. -/
def CopyEnd.memory : CopyEnd → Memory
  | .copied m _ => m
  | .sourceFault _ m _ => m
  | .destFault _ m _ => m

/-- However a COPY ends, no word outside the destination bank changes, and the memory keeps its form. -/
theorem copyFrom_memory (disturb : Nat → Option Triple) (source dest : Bank) (m : Memory) (i n remaining : Nat) :
    let m' := (copyFrom disturb source dest m i n remaining).memory
    (m.wf → m'.wf) ∧ (m.Sound → m'.Sound) ∧ ∀ b k, b ≠ dest → m'.at (wordAddr b k) = m.at (wordAddr b k) := by
  induction remaining generalizing m i n with
  | zero => exact ⟨id, id, fun _ _ _ => rfl⟩
  | succ remaining ih =>
      unfold copyFrom
      simp only
      split
      · exact ⟨id, id, fun _ _ _ => rfl⟩
      · split
        · exact ⟨fun h => writeWord_wf h _ _ _, fun h => writeWord_sound h _ _ _,
            fun b k hb => at_writeWord_other _ _ (.inl hb)⟩
        · obtain ⟨h1, h2, h3⟩ := ih (writeWord m dest (BitVec.ofNat 10 i)
            (readWord disturb m n source (BitVec.ofNat 10 i)).values) (i + 1) (n + 2)
          exact ⟨fun h => h1 (writeWord_wf h _ _ _), fun h => h2 (writeWord_sound h _ _ _),
            fun b k hb => by rw [h3 b k hb, at_writeWord_other _ _ (.inl hb)]⟩

/-- A read depends on the word it reads alone. -/
theorem readWord_congr {disturb : Nat → Option Triple} {m m' : Memory} {n : Nat} {b : Bank} {i : Comp}
    (h : m.at (wordAddr b i) = m'.at (wordAddr b i)) : readWord disturb m n b i = readWord disturb m' n b i := by
  unfold readWord; rw [h]

/-- A word just written reads back with a fault only when the read is disturbed (R22). -/
theorem readWord_written {m : Memory} (hm : m.wf) (disturb : Nat → Option Triple) (n : Nat) (b : Bank) (i : Comp)
    (t : Triple) : (readWord disturb (writeWord m b i t) n b i).faulty = (disturb n).isSome := by
  unfold readWord; rw [at_writeWord_same hm]; cases disturb n <;> simp

/-- A COPY ends sound, or at its first fault: of a source read, or of a read-back (R50). -/
theorem copyFrom_cases (disturb : Nat → Option Triple) {source dest : Bank} (hne : source ≠ dest) {m : Memory}
    (hm : m.wf) (i n remaining : Nat) :
    let badSource (j : Nat) : Bool := (readWord disturb m (n + 2 * j) source (BitVec.ofNat 10 (i + j))).faulty
    let badCopy (j : Nat) : Bool := (disturb (n + 2 * j + 1)).isSome
    let goodBefore (j : Nat) : Prop := ∀ k < j, badSource k = false ∧ badCopy k = false
    (goodBefore remaining ∧ ∃ m', copyFrom disturb source dest m i n remaining = .copied m' (n + 2 * remaining)) ∨
    (∃ j < remaining, goodBefore j ∧ badSource j = true ∧
      ∃ m', copyFrom disturb source dest m i n remaining = .sourceFault (i + j) m' (n + 2 * j + 1)) ∨
    ∃ j < remaining, goodBefore j ∧ badSource j = false ∧ badCopy j = true ∧
      ∃ m', copyFrom disturb source dest m i n remaining = .destFault (i + j) m' (n + 2 * j + 2) := by
  induction remaining generalizing m i n with
  | zero => exact .inl ⟨fun _ h => absurd h (Nat.not_lt_zero _), m, rfl⟩
  | succ remaining ih =>
      unfold copyFrom
      cases hf : (readWord disturb m n source (BitVec.ofNat 10 i)).faulty with
      | true =>
          exact .inr (.inl ⟨0, by omega, fun _ h => absurd h (Nat.not_lt_zero _), by simpa using hf, m, by simp [hf]⟩)
      | false =>
          simp only [hf, Bool.false_eq_true, if_false]
          rw [readWord_written hm]
          cases hd : (disturb (n + 1)).isSome with
          | true =>
              exact .inr (.inr ⟨0, by omega, fun _ h => absurd h (Nat.not_lt_zero _), by simpa using hf,
                by simpa using hd, _, by simp; rfl⟩)
          | false =>
              simp only [Bool.false_eq_true, if_false]
              have same : ∀ k j, readWord disturb (writeWord m dest (BitVec.ofNat 10 i)
                  (readWord disturb m n source (BitVec.ofNat 10 i)).values) k source j = readWord disturb m k source j :=
                fun k j => readWord_congr (at_writeWord_other _ _ (.inl hne))
              have shift : ∀ j, n + 2 + 2 * j = n + 2 * (j + 1) ∧ i + 1 + j = i + (j + 1) := fun j => by omega
              have first : ∀ (j : Nat), (∀ k < j, (readWord disturb m (n + 2 + 2 * k) source
                  (BitVec.ofNat 10 (i + 1 + k))).faulty = false ∧ (disturb (n + 2 + 2 * k + 1)).isSome = false) →
                  ∀ k < j + 1, (readWord disturb m (n + 2 * k) source (BitVec.ofNat 10 (i + k))).faulty = false ∧
                    (disturb (n + 2 * k + 1)).isSome = false := fun j good k hk => by
                cases k with
                | zero => exact ⟨by simpa using hf, by simpa using hd⟩
                | succ k =>
                    have := good k (by omega)
                    rwa [(shift k).1, (shift k).2] at this
              have step := ih (writeWord_wf hm dest (BitVec.ofNat 10 i)
                (readWord disturb m n source (BitVec.ofNat 10 i)).values) (i + 1) (n + 2)
              simp only [same] at step
              rcases step with ⟨good, m', e⟩ | ⟨j, hj, before, hbad, m', e⟩ | ⟨j, hj, before, hs, hbad, m', e⟩
              · exact .inl ⟨first _ good, m', by rw [e, show n + 2 + 2 * remaining = n + 2 * (remaining + 1) by omega]⟩
              · refine .inr (.inl ⟨j + 1, by omega, first j before, ?_, m', ?_⟩)
                · rwa [(shift j).1, (shift j).2] at hbad
                · rw [e, (shift j).2, (shift j).1]
              · refine .inr (.inr ⟨j + 1, by omega, first j before, ?_, ?_, m', ?_⟩)
                · rwa [(shift j).1, (shift j).2] at hs
                · rwa [(shift j).1] at hbad
                · rw [e, (shift j).2, (shift j).1]

/-- A COPY that ends sound leaves in each of its words of the destination the values of that word of the source, and no
other word of the destination changed. -/
theorem copyFrom_copied {disturb : Nat → Option Triple} {source dest : Bank} (hne : source ≠ dest) {m : Memory}
    (hm : m.wf) {i n remaining : Nat} (hi : i + remaining ≤ 1024) {m' : Memory} {next : Nat}
    (h : copyFrom disturb source dest m i n remaining = .copied m' next) (k : Comp) :
    m'.at (wordAddr dest k) =
      if i ≤ k.toNat ∧ k.toNat < i + remaining then
        ⟨(m.at (wordAddr source k)).values, parityOf (m.at (wordAddr source k)).values⟩
      else m.at (wordAddr dest k) := by
  induction remaining generalizing m i n with
  | zero =>
      simp only [copyFrom, CopyEnd.copied.injEq] at h
      rw [if_neg (by omega), h.1]
  | succ remaining ih =>
      unfold copyFrom at h
      simp only at h
      split at h
      · simp at h
      · next hf =>
          split at h
          · simp at h
          · rw [ih (writeWord_wf hm _ _ _) (by omega) h]
            have hv := readWord_values (Bool.eq_false_iff.2 hf)
            rw [hv, at_writeWord_other _ _ (.inl hne)]
            by_cases e : k = BitVec.ofNat 10 i
            · have : k.toNat = i := by rw [e, BitVec.toNat_ofNat]; omega
              rw [if_neg (by omega), if_pos (by omega), e, at_writeWord_same hm]
            · have : k.toNat ≠ i := fun h => e (by
                apply BitVec.eq_of_toNat_eq; rw [BitVec.toNat_ofNat, h]; omega)
              rw [at_writeWord_other _ _ (.inr e)]
              by_cases hk : i + 1 ≤ k.toNat ∧ k.toNat < i + 1 + remaining
              · rw [if_pos hk, if_pos (by omega)]
              · rw [if_neg hk, if_neg (by omega)]

/-! ### Stopping a job (R46, R64) -/

/-- The partial work of a stopped job keeps the memory's form and stays within the bank the job writes. -/
theorem partialWork_memory (m : Memory) (b : BankMap) (k : Nat) (w : JobWork) :
    (m.wf → (partialWork m b k w).wf) ∧ (m.Sound → (partialWork m b k w).Sound) ∧
      ∀ bank i, (∀ h, w.handle? = some h → ∀ side, (b.record h).staged = some side → bank ≠ side.bank) →
        w.scrubbed? ≠ some bank → (partialWork m b k w).at (wordAddr bank i) = m.at (wordAddr bank i) := by
  cases w with
  | fill h =>
      simp only [partialWork, JobWork.handle?, JobWork.scrubbed?]
      cases e : (b.record h).staged with
      | none => exact ⟨id, id, fun _ _ _ _ => rfl⟩
      | some side =>
          exact ⟨fun hm => zeroWords_wf hm .., fun hm => zeroWords_sound hm _ _,
            fun bank i hb _ => at_zeroWords_otherBank _ (hb h rfl side e) ..⟩
  | copy h source keys =>
      simp only [partialWork, JobWork.handle?, JobWork.scrubbed?]
      cases e : (b.record h).staged with
      | none => exact ⟨id, id, fun _ _ _ _ => rfl⟩
      | some side =>
          exact ⟨fun hm => copyWords_wf hm .., fun hm => copyWords_sound hm _ _ _,
            fun bank i hb _ => at_copyWords_otherBank _ _ (hb h rfl side e) ..⟩
  | check h expected keys => exact ⟨id, id, fun _ _ _ _ => rfl⟩
  | scrub bank =>
      exact ⟨fun hm => zeroWords_wf hm .., fun hm => zeroWords_sound hm _ _,
        fun b' i _ hs => at_zeroWords_otherBank _ (fun e => hs (by rw [e]; rfl)) ..⟩

/-- Stopping the running job changes the memory and the model's own count of abandoned jobs alone. -/
theorem State.stopRunning_eq (s : State) :
    s.stopRunning = { s with mem := s.stopRunning.mem, abandons := s.stopRunning.abandons } := by
  unfold State.stopRunning; split <;> rfl

/-- Dropping a handle's job changes the job queue, and what stopping changes. -/
theorem State.dropJobOf_eq (s : State) (h : Handle) :
    s.dropJobOf h = { s with
      mem := (s.dropJobOf h).mem, abandons := (s.dropJobOf h).abandons,
      jobs := s.jobs.filter fun job => !job.work.worksOn h } := by
  unfold State.dropJobOf
  cases e : s.jobs with
  | nil => simp [e]
  | cons job rest =>
      simp only
      split
      · rw [State.stopRunning_eq]; simp [e]
      · simp [e]

theorem JobWork.worksOn_iff (w : JobWork) (h : Handle) : w.worksOn h = true ↔ w.handle? = some h := by
  cases w <;> simp [JobWork.worksOn, JobWork.handle?]

end Sys2Proof.Machine
end

