-- ==== Sys2Proof/Laws/Lookup.lean ====
section
/-! SUPPORT. What lookups can do (R4, R13, R18 to R20): a transformed line has one pixel for each pixel taken; nothing of
a handle record changes but its fault count and the mark of its active side; sound reads change no record; each kind of
stage meets a fault exactly at its faulty reads, and then outputs its input. -/

namespace Sys2Proof.Machine

/-- What lookups leave of a handle record: everything but the fault count and the active side's mark. -/
structure HandleRecord.SameButFaults (r r' : HandleRecord) : Prop where
  use           : r'.active.map Side.use = r.active.map Side.use
  staged        : r'.staged = r.staged
  retained      : r'.retained = r.retained
  stagedState   : r'.stagedState = r.stagedState
  nextSeq       : r'.nextSeq = r.nextSeq
  writeAccepted : r'.writeAccepted = r.writeAccepted

theorem HandleRecord.SameButFaults.refl (r : HandleRecord) : r.SameButFaults r := ⟨rfl, rfl, rfl, rfl, rfl, rfl⟩

theorem HandleRecord.SameButFaults.trans {r r' r'' : HandleRecord} (a : r.SameButFaults r') (b : r'.SameButFaults r'') :
    r.SameButFaults r'' :=
  ⟨b.use.trans a.use, b.staged.trans a.staged, b.retained.trans a.retained, b.stagedState.trans a.stagedState,
    b.nextSeq.trans a.nextSeq, b.writeAccepted.trans a.writeAccepted⟩

theorem HandleRecord.lookupFault_same (r : HandleRecord) : r.SameButFaults r.lookupFault :=
  ⟨by cases h : r.active <;> simp [HandleRecord.lookupFault, h, Side.withMark, Side.use], rfl, rfl, rfl, rfl, rfl⟩

/-- What lookups leave of all handle records, and when they change none. -/
structure Lookup.Grows (l l' : Lookup) : Prop where
  same    : ∀ h : Handle, (l.handles[h.val]).SameButFaults l'.handles[h.val]
  faulted : l.faulted = true → l'.faulted = true
  sound   : l'.faulted = false → l'.handles = l.handles

theorem Lookup.Grows.refl (l : Lookup) : l.Grows l := ⟨fun _ => .refl _, id, fun _ => rfl⟩

theorem Lookup.Grows.trans {l l' l'' : Lookup} (a : l.Grows l') (b : l'.Grows l'') : l.Grows l'' :=
  ⟨fun h => (a.same h).trans (b.same h), fun h => b.faulted (a.faulted h), fun h =>
    (b.sound h).trans (a.sound (by cases e : l'.faulted with | false => rfl | true => simp [b.faulted e] at h))⟩

theorem Lookup.after_grows (l : Lookup) (h : Handle) (r : StageResult) : l.Grows (l.after h r) := by
  unfold Lookup.after
  split
  · refine ⟨fun k => ?_, fun _ => rfl, fun e => by cases e⟩
    by_cases e : h = k
    · subst e; simpa using HandleRecord.lookupFault_same _
    · simp only [Vector.getElem_set, if_neg fun e' => e (Fin.ext e')]; exact .refl _
  · exact ⟨fun _ => .refl _, id, fun _ => rfl⟩

theorem runChain_grows (disturb : Nat → Option Triple) (m : Memory) (px : Triple) (l : Lookup) (chain : List Stage) :
    l.Grows (runChain disturb m px l chain).2 := by
  induction chain generalizing px l with
  | nil => exact .refl l
  | cons st rest ih => exact (l.after_grows st.handle _).trans (ih _ _)

theorem transformFrom_grows (disturb : Nat → Option Triple) (m : Memory) (c : Configuration) (y x : Nat) (l : Lookup)
    (pixels : List Triple) : l.Grows (transformFrom disturb m c y x l pixels).2 := by
  induction pixels generalizing x l with
  | nil => exact .refl l
  | cons px rest ih => exact (runChain_grows disturb m px l _).trans (ih _ _)

/-! ### When a stage meets a fault (R18) -/

theorem readWord_not_faulty {disturb : Nat → Option Triple} {m : Memory} {bank : Bank} {n : Nat} {i : Comp}
    (h : ¬ FaultyRead disturb m bank n i) :
    (readWord disturb m n bank i).values = storedValues m bank i ∧ (readWord disturb m n bank i).faulty = false := by
  unfold FaultyRead readWord at *
  cases e : disturb n with
  | some v => simp [e] at h
  | none => rw [e] at h; exact ⟨rfl, by simpa using h⟩

/-- A CURVE stage: its reads, when one is faulty, and what it then gives. -/
theorem runCurve_fault (disturb : Nat → Option Triple) (m : Memory) (bank : Bank) (mask : Byte) (px : Triple) (n : Nat) :
    let read (k : Nat) : Nat := if mask.getLsbD k then 1 else 0
    let r := runCurve disturb m bank mask px n
    (r.faulty = true ↔ (mask.getLsbD 0 = true ∧ FaultyRead disturb m bank n px.c0) ∨
      (mask.getLsbD 1 = true ∧ FaultyRead disturb m bank (n + read 0) px.c1) ∨
      (mask.getLsbD 2 = true ∧ FaultyRead disturb m bank (n + read 0 + read 1) px.c2)) ∧
    r.next = n + read 0 + read 1 + read 2 ∧ (r.faulty = true → r.out = px) := by
  simp only [runCurve, curveComponent, FaultyRead]
  cases mask.getLsbD 0 <;> cases mask.getLsbD 1 <;> cases mask.getLsbD 2 <;>
    simp <;> split <;> simp_all [or_assoc]

/-- A PALETTE stage: its one read. -/
theorem runPalette_fault (disturb : Nat → Option Triple) (m : Memory) (bank : Bank) (component : Byte) (px : Triple)
    (n : Nat) :
    let r := runPalette disturb m bank component px n
    (r.faulty = true ↔ FaultyRead disturb m bank n (paletteIndex component px)) ∧ r.next = n + 1 ∧
      (r.faulty = true → r.out = px) := by
  refine ⟨Iff.rfl, rfl, fun h => ?_⟩
  simp only [runPalette] at h ⊢; simp [h]

/-- A KEY search examines one record, which is faulty, or does not match and the search goes on. -/
theorem searchKeys_fault_step (disturb : Nat → Option Triple) (m : Memory) (bank : Bank) (px : Triple) (k n rest : Nat) :
    (searchKeys disturb m bank px k n (rest + 1)).faulty = true ↔
      KeyRecordFaulty disturb m bank px k n ∨ (¬ KeyMatches m bank px k ∧ ¬ KeyRecordFaulty disturb m bank px k n ∧
        (searchKeys disturb m bank px (k + 1) (n + keyReads m bank k) rest).faulty = true) := by
  by_cases hc : FaultyRead disturb m bank n (keyWord k 3)
  · have : (readWord disturb m n bank (keyWord k 3)).faulty = true := hc
    simp [searchKeys, this, KeyRecordFaulty, hc]
  obtain ⟨hv, hf⟩ := readWord_not_faulty hc
  have hk : KeyControl.ofTriple (readWord disturb m n bank (keyWord k 3)).values = storedKey m bank k := by rw [hv]; rfl
  simp only [searchKeys, hf, hk]
  cases hval : (storedKey m bank k).valid with
  | false => simp [KeyRecordFaulty, KeyMatches, hc, hval, keyReads]
  | true =>
  cases hall : (storedKey m bank k).matchesAll with
  | true =>
    cases hp : (storedKey m bank k).pass
    · simp [KeyRecordFaulty, KeyMatches, hc, hval, hall, hp, applyKey]; rfl
    · simp [KeyRecordFaulty, KeyMatches, hc, hval, hall, hp, applyKey]
  | false =>
    by_cases hl : FaultyRead disturb m bank (n + 1) (keyWord k 0)
    · have : (readWord disturb m (n + 1) bank (keyWord k 0)).faulty = true := hl
      simp [KeyRecordFaulty, hval, hall, hl, this]
    obtain ⟨lv, lf⟩ := readWord_not_faulty hl
    by_cases hh : FaultyRead disturb m bank (n + 2) (keyWord k 1)
    · have : (readWord disturb m (n + 2) bank (keyWord k 1)).faulty = true := hh
      simp [KeyRecordFaulty, hval, hall, hh, this, lf]
    obtain ⟨uv, uf⟩ := readWord_not_faulty hh
    rw [lv, uv]
    cases hw : (storedKey m bank k).within (storedValues m bank (keyWord k 0)) (storedValues m bank (keyWord k 1)) px with
    | false => simp [KeyRecordFaulty, KeyMatches, hc, hval, hall, hl, hh, lf, uf, hw, keyReads]
    | true =>
      cases hp : (storedKey m bank k).pass
      · simp [KeyRecordFaulty, KeyMatches, hc, hval, hall, hl, hh, lf, uf, hw, hp, applyKey]; rfl
      · simp [KeyRecordFaulty, KeyMatches, hc, hval, hall, hl, hh, lf, uf, hw, hp, applyKey]

theorem applyKey_fault_out (disturb : Nat → Option Triple) (m : Memory) (bank : Bank) (k : Nat) (pass : Bool) (px : Triple)
    (n : Nat) (h : (applyKey disturb m bank k pass px n).faulty = true) :
    (applyKey disturb m bank k pass px n).out = px := by
  unfold applyKey at h ⊢; split <;> simp_all

/-- A KEY search that meets a fault outputs its input. -/
theorem searchKeys_fault_out (disturb : Nat → Option Triple) (m : Memory) (bank : Bank) (px : Triple) (k n rest : Nat)
    (h : (searchKeys disturb m bank px k n rest).faulty = true) : (searchKeys disturb m bank px k n rest).out = px := by
  induction rest generalizing k n with
  | zero => rfl
  | succ rest ih =>
    simp only [searchKeys] at h ⊢
    repeat' split at h
    all_goals simp_all
    all_goals exact applyKey_fault_out _ _ _ _ _ _ _ h

/-- Every kind of stage steps aside at a fault (R18). -/
theorem runStage_fault_out (disturb : Nat → Option Triple) (m : Memory) (active : Option Side) (st : Stage) (px : Triple)
    (n : Nat) (h : (runStage disturb m active st px n).faulty = true) : (runStage disturb m active st px n).out = px := by
  unfold runStage at h ⊢
  split
  · rfl
  · split
    · next e => rw [e] at h; exact (runCurve_fault ..).2.2 h
    · next e => rw [e] at h; exact (runPalette_fault ..).2.2 h
    · next e => rw [e] at h; exact searchKeys_fault_out _ _ _ _ _ _ _ h

/-! ### What a fault leaves on the handle (R19, R20) -/

theorem Lookup.after_sound {l : Lookup} {h : Handle} {r : StageResult} (e : r.faulty = false) :
    l.after h r = { l with reads := r.next } := by simp [Lookup.after, e]

theorem Lookup.after_faulty {l : Lookup} {h : Handle} {r : StageResult} (e : r.faulty = true) :
    l.after h r = ⟨r.next, l.handles.set h.val (l.handles[h.val]).lookupFault,
      some (l.firstFault.getD (l.handles.set h.val (l.handles[h.val]).lookupFault))⟩ := by simp [Lookup.after, e]

/-! ### Lines and words -/

theorem transformFrom_length (disturb : Nat → Option Triple) (m : Memory) (c : Configuration) (y x : Nat) (l : Lookup)
    (pixels : List Triple) : (transformFrom disturb m c y x l pixels).1.length = pixels.length := by
  induction pixels generalizing x l with
  | nil => rfl
  | cons px rest ih => simp [transformFrom, ih]

/-- The word that carries a triple has zeros in its two unused bits (R6). -/
theorem wordOfTriple_high (t : Triple) : (wordOfTriple t).extractLsb' 30 2 = 0 := by
  ext i hi
  simp only [wordOfTriple, BitVec.getElem_extractLsb', BitVec.getLsbD_append]
  interval_cases i <;> simp

theorem tripleOfWord_wordOfTriple (t : Triple) : tripleOfWord (wordOfTriple t) = t := by
  obtain ⟨a, b, c⟩ := t
  simp only [tripleOfWord, wordOfTriple, Triple.mk.injEq]
  refine ⟨?_, ?_, ?_⟩ <;> ext i hi <;> simp only [BitVec.getElem_extractLsb', BitVec.getLsbD_append] <;>
    interval_cases i <;> simp [BitVec.getLsbD_eq_getElem]

end Sys2Proof.Machine
end

