-- ==== Sys2Proof/Laws/Ops.lean ====
section
/-! SUPPORT. What the shared operations can do: a step that takes place or does not, the taking of the head command and
its end, the classes of packets, the moves of jobs and of capture attempts, and what the reset pin cuts off. -/

namespace Sys2Proof.Machine

/-! ### A step -/

theorem takeStep_held {event : State → Option State} {s : State} (h : s.resetHeld = true) :
    takeStep event s = .next s := by simp [takeStep, h]

theorem takeStep_absent {event : State → Option State} {s : State} (h : event s = none) : takeStep event s = .next s := by
  simp [takeStep, h]

theorem takeStep_some {event : State → Option State} {s t : State} (hs : s.resetHeld = false) (h : event s = some t) :
    takeStep event s = .next t.reportEvents := by simp [takeStep, hs, h]

/-- Everything a step can do: nothing, or its event and then the test of R157. -/
theorem takeStep_cases {event : State → Option State} {s t : State} (h : takeStep event s = .next t) :
    t = s ∨ (s.resetHeld = false ∧ ∃ u, event s = some u ∧ t = u.reportEvents) := by
  simp only [takeStep, Host.Outcome.next.injEq] at h
  split at h
  · exact .inl h.symm
  · next hs =>
      split at h
      · exact .inl h.symm
      · next u hu => exact .inr ⟨by simpa using hs, u, hu, h.symm⟩

/-- The command at the front of the queue is taken (log 4). -/
theorem step_cons {s : State} {c : Instr} {rest : List Instr} {o : Host.Outcome State Fault Refusal}
    (h : s.pending = c :: rest) (he : exec c { s with pending := rest } = o) : step s = o := by
  unfold step; rw [h]; exact he

/-! ### The head command -/

/-- The state in which the body of a command runs: a reply slot is reserved (R140). -/
def State.slotReserved (s : State) : State := { s with cmd := { s.cmd with slots := s.cmd.slots + 1 } }

@[simp] theorem State.slotReserved_rx (s : State) : s.slotReserved.rx = s.rx := rfl
@[simp] theorem State.slotReserved_pix (s : State) : s.slotReserved.pix = s.pix := rfl
@[simp] theorem State.slotReserved_mem (s : State) : s.slotReserved.mem = s.mem := rfl
@[simp] theorem State.slotReserved_banks (s : State) : s.slotReserved.banks = s.banks := rfl
@[simp] theorem State.slotReserved_jobs (s : State) : s.slotReserved.jobs = s.jobs := rfl
@[simp] theorem State.slotReserved_cfg (s : State) : s.slotReserved.cfg = s.cfg := rfl
@[simp] theorem State.slotReserved_commit (s : State) : s.slotReserved.commit = s.commit := rfl
@[simp] theorem State.slotReserved_sig (s : State) : s.slotReserved.sig = s.sig := rfl
@[simp] theorem State.slotReserved_ret (s : State) : s.slotReserved.ret = s.ret := rfl
@[simp] theorem State.slotReserved_events (s : State) : s.slotReserved.events = s.events := rfl
@[simp] theorem State.slotReserved_creditDue (s : State) : s.slotReserved.creditDue = s.creditDue := rfl
@[simp] theorem State.slotReserved_address (s : State) : s.slotReserved.address = s.address := rfl
@[simp] theorem State.slotReserved_resetHeld (s : State) : s.slotReserved.resetHeld = s.resetHeld := rfl
@[simp] theorem State.slotReserved_downOut (s : State) : s.slotReserved.downOut = s.downOut := rfl
@[simp] theorem State.slotReserved_upOut (s : State) : s.slotReserved.upOut = s.upOut := rfl
@[simp] theorem State.slotReserved_reads (s : State) : s.slotReserved.reads = s.reads := rfl
@[simp] theorem State.slotReserved_abandons (s : State) : s.slotReserved.abandons = s.abandons := rfl
@[simp] theorem State.slotReserved_pending (s : State) : s.slotReserved.pending = s.pending := rfl
@[simp] theorem State.slotReserved_jobRoom (s : State) : s.slotReserved.jobRoom = s.jobRoom := rfl

/-- The slot reserved, as a change of the command unit alone. -/
theorem State.slotReserved_eq (s : State) : s.slotReserved = { s with cmd := s.slotReserved.cmd } := rfl

theorem takeHead_ready {codes : Byte → Bool} {body : CommandPacket → State → CommandResult} {s : State}
    {c : CommandPacket} (h : HeadReady s c) (hc : codes c.code = true) :
    takeHead codes body s = some (finishCommand c (body c s.slotReserved)) := by
  obtain ⟨_, head, fresh, slot⟩ := h
  unfold takeHead
  cases e : s.cmd.queue with
  | nil => simp [e] at head
  | cons d rest =>
      simp only [e, List.head?_cons, Option.some.injEq] at head
      subst head
      simp only
      rw [if_pos ⟨hc, fresh, slot⟩]
      rfl

/-- Everything the taking of the head command can do: nothing, or the head command of a code accepted runs with a slot
reserved. -/
theorem takeHead_cases {codes : Byte → Bool} {body : CommandPacket → State → CommandResult} {s t : State}
    (h : takeHead codes body s = some t) :
    ∃ c rest, s.cmd.queue = c :: rest ∧ codes c.code = true ∧ s.cmd.waiting = false ∧
      s.cmd.slots < Config.replySlots ∧ t = finishCommand c (body c s.slotReserved) := by
  unfold takeHead at h
  cases e : s.cmd.queue with
  | nil => simp [e] at h
  | cons c rest =>
      simp only [e] at h
      split at h
      · next hc =>
          obtain ⟨h1, h2, h3⟩ := hc
          exact ⟨c, rest, rfl, h1, h2, h3, by rw [← Option.some.inj h]; simp [State.slotReserved, e]⟩
      · cases h

/-- A head command that is answered at once. The body leaves the command unit as it found it. -/
theorem execHead_reply {codes : Byte → Bool} {body : CommandPacket → State → CommandResult} {s u : State}
    {c : CommandPacket} {status : Status} {payload : List Byte} (h : HeadReady s c) (hc : codes c.code = true)
    (hb : body c s.slotReserved = .reply status payload { u with cmd := s.slotReserved.cmd }) (hu : u.cmd = s.cmd) :
    takeStep (takeHead codes body) s = .next (u.answered c status payload) := by
  rw [takeStep_some h.held (takeHead_ready h hc), hb]
  simp only [finishCommand, State.answered, State.headTaken, State.withReply, State.reply, State.slotReserved, hu]

/-- A head command that is answered at once and changes nothing else. -/
theorem execHead_unchanged {codes : Byte → Bool} {body : CommandPacket → State → CommandResult} {s : State}
    {c : CommandPacket} {status : Status} {payload : List Byte} (h : HeadReady s c) (hc : codes c.code = true)
    (hb : body c s.slotReserved = .reply status payload s.slotReserved) :
    takeStep (takeHead codes body) s = .next (s.answered c status payload) := execHead_reply h hc (u := s) hb rfl

/-- A head command whose reply is deferred. -/
theorem execHead_deferred {codes : Byte → Bool} {body : CommandPacket → State → CommandResult} {s u : State}
    {c : CommandPacket} (h : HeadReady s c) (hc : codes c.code = true)
    (hb : body c s.slotReserved = .deferred { u with cmd := s.slotReserved.cmd }) (hu : u.cmd = s.cmd) :
    takeStep (takeHead codes body) s = .next u.headTaken.reportEvents := by
  rw [takeStep_some h.held (takeHead_ready h hc), hb]
  simp only [finishCommand, State.headTaken, State.slotReserved, hu]

/-- A head command that begins to wait for job room. -/
theorem execHead_wait {codes : Byte → Bool} {body : CommandPacket → State → CommandResult} {s : State}
    {c : CommandPacket} (h : HeadReady s c) (hc : codes c.code = true) (hb : body c s.slotReserved = .wait s.slotReserved) :
    takeStep (takeHead codes body) s =
      .next { s with cmd := { s.cmd with slots := s.cmd.slots + 1, waiting := true } }.reportEvents := by
  rw [takeStep_some h.held (takeHead_ready h hc), hb]
  rfl

/-- A command that cannot be taken leaves the part as it is (R140, R142, R143). -/
theorem execHead_absent {codes : Byte → Bool} {body : CommandPacket → State → CommandResult} {s : State}
    (h : s.cmd.waiting = true ∨ Config.replySlots ≤ s.cmd.slots ∨ ∀ c, s.cmd.queue.head? = some c → codes c.code = false) :
    takeStep (takeHead codes body) s = .next s := by
  refine takeStep_absent ?_
  unfold takeHead
  cases e : s.cmd.queue with
  | nil => rfl
  | cons c rest =>
      simp only
      refine if_neg fun ⟨h1, h2, h3⟩ => ?_
      rcases h with h | h | h
      · simp [h] at h2
      · omega
      · simp [h c (by simp [e])] at h1

theorem withLength_ok {len : Nat} {body : CommandPacket → State → CommandResult} {c : CommandPacket} {s : State}
    (h : c.payload.length = len) : withLength len body c s = body c s := if_pos h

theorem withLength_bad {len : Nat} {body : CommandPacket → State → CommandResult} {c : CommandPacket} {s : State}
    (h : c.payload.length ≠ len) : withLength len body c s = .reply .badLength [] s := if_neg h

theorem handleOf_handleByte (h : Handle) : handleOf (handleByte h) = some h := by revert h; decide

theorem handleOf_none {b : Byte} (h : b.toNat = 0 ∨ 10 < b.toNat) : handleOf b = none := by
  unfold handleOf; rw [dif_neg (by omega)]

theorem bankOf_bankByte (b : Bank) : bankOf (bankByte b) = some b := by revert b; decide

theorem withHandle_ok {body : Handle → CommandPacket → State → CommandResult} {c : CommandPacket} {s : State}
    {h : Handle} (hb : byteAt c.payload 0 = handleByte h) : withHandle body c s = body h c s := by
  unfold withHandle; rw [hb, handleOf_handleByte]

theorem withHandle_bad {body : Handle → CommandPacket → State → CommandResult} {c : CommandPacket} {s : State}
    (hb : (byteAt c.payload 0).toNat = 0 ∨ 10 < (byteAt c.payload 0).toNat) :
    withHandle body c s = .reply .badHandle [] s := by
  unfold withHandle; rw [handleOf_none hb]

/-! ### Packets -/

theorem takePacket_good {p : ForwardPacket} (s : State) (h : fieldsInRange p = true) : takePacket p s = takeGood p s :=
  if_pos h

theorem takeBytes_bad {bytes : List Byte} (s : State) (h : classify bytes = .bad) :
    takeBytes bytes s = takeBad bytes s := by unfold takeBytes; rw [h]

theorem takeBytes_malformed {bytes : List Byte} (s : State) (h : classify bytes = .malformed) :
    takeBytes bytes s = takeMalformed bytes s := by unfold takeBytes; rw [h]

/-- A well-formed good packet is taken by its kind, and the test of R157 follows. -/
theorem execPacket {p : ForwardPacket} {s : State} (hs : s.resetHeld = false) (hp : fieldsInRange p = true) :
    takeStep (fun s => some (takePacket p s)) s = .next (takeGood p s).reportEvents := by
  rw [takeStep_some hs (t := takeGood p s)]
  simp [takePacket_good _ hp]

/-! ### Capture attempts (R117, R118) -/

/-- A broken attempt changes the capture unit, and the own queue when it is the last. -/
theorem State.brokenAttempt_cases (s : State) (r : CaptureRecord) (again : CaptureRecord → Capture) :
    (r.attempts + 1 < 4 ∧ s.brokenAttempt r again =
        { s with sig := { s.sig with capture := again { r with attempts := r.attempts + 1 } } }) ∨
    (4 ≤ r.attempts + 1 ∧ s.brokenAttempt r again =
        { s with sig := { s.sig with capture := .idle } }.reply r.tag r.code .noCleanFrame
          (noCleanFramePayload (r.attempts + 1))) := by
  unfold State.brokenAttempt
  split
  · next h => exact .inl ⟨h, rfl⟩
  · next h => exact .inr ⟨Nat.le_of_not_lt h, rfl⟩

/-! ### What the reset pin cuts off (R179; log 37) -/

theorem cutShort_spec (p : LanePacket) (k : Nat) : p.CutShort (cutShort p.bytes k) :=
  ⟨rfl, _, Nat.min_le_right _ _, rfl⟩

/-- While the pin is asserted already, the return lane sends nothing that could be cut off. -/
theorem State.cutOff_held {s : State} (h : s.resetHeld = true) : s.cutOff = [] := by
  simp [State.cutOff, State.returnLane, h]

/-- Else its list grows by one cut-off packet: the message being sent, or a return FILL. -/
theorem State.cutOff_sending {s : State} (h : s.resetHeld = false) :
    ∃ q, LanePacket.CutShort ⟨s.sendingBytes.getD returnFiller, true⟩ q ∧ s.cutOff = [q] :=
  ⟨_, cutShort_spec ⟨_, true⟩ _, by simp only [State.cutOff, State.returnLane, h]; rfl⟩

/-- What the forward lane has carried: all of its list, or the list up to a packet that is cut off. -/
theorem State.forwardCutOff_cases (s : State) : s.forwardCutOff = s.downOut ∨
    ∃ kept p q, kept ++ [p] <+: s.downOut ∧ s.downOut.length - s.downHanded ≤ kept.length ∧ p.CutShort q ∧
      s.forwardCutOff = kept ++ [q] := by
  unfold State.forwardCutOff
  simp only
  generalize hl : s.downOut.length - min (Config.forwardCut s.resets).1 s.downHanded = left
  by_cases hlt : left < s.downOut.length
  · refine .inr ⟨s.downOut.take left, s.downOut[left], _, ?_, ?_, cutShort_spec _ (Config.forwardCut s.resets).2, ?_⟩
    · rw [List.take_append_getElem hlt]; exact List.take_prefix _ _
    · simp only [List.length_take]; omega
    · simp [List.head?_drop, hlt]
  · have h : s.downOut.length ≤ left := by omega
    exact .inl (by simp [List.take_of_length_le h, List.drop_of_length_le h])

end Sys2Proof.Machine
end

