-- ==== Sys2Proof/Laws/Records.lean ====
section
/-! SUPPORT. What a carried record gives (R66 to R68): one lemma for each record reader of Machine/Operands.lean, naming both
of its cases. -/
namespace Sys2Proof.Machine

/-- A carried rectangle is invalid, or is read with its four coordinates. -/
theorem rectAt_cases (p : List Byte) (i : Nat) :
    (RectInvalid p i ∧ rectAt p i = none) ∨ (¬ RectInvalid p i ∧ ∃ r, rectAt p i = some r ∧ r.Holds p i) := by
  unfold RectInvalid rectAt
  simp only [List.mem_cons, List.not_mem_nil, or_false, exists_eq_or_imp, exists_eq_left]
  split
  · rename_i h
    refine .inr ⟨by omega, _, rfl, ?_⟩
    simp only [Rect.Holds, BitVec.toNat_ofNat]
    omega
  · exact .inl ⟨by omega, rfl⟩

/-- A carried stage entry is invalid, or is read with its fields. -/
theorem stageAt_cases (area : List Byte) (s : Nat) :
    ((byteAt area (1 + 4 * s) ∉ ([1, 2, 3] : List Byte) ∨
      (byteAt area (2 + 4 * s)).toNat = 0 ∨ 10 < (byteAt area (2 + 4 * s)).toNat ∨
      (byteAt area (1 + 4 * s) = 2 ∧ 2 < (byteAt area (3 + 4 * s)).toNat)) ∧ stageAt area s = none) ∨
    (¬ (byteAt area (1 + 4 * s) ∉ ([1, 2, 3] : List Byte) ∨
      (byteAt area (2 + 4 * s)).toNat = 0 ∨ 10 < (byteAt area (2 + 4 * s)).toNat ∨
      (byteAt area (1 + 4 * s) = 2 ∧ 2 < (byteAt area (3 + 4 * s)).toNat)) ∧ ∃ st, stageAt area s = some st ∧
      byteAt area (1 + 4 * s) = (match st.kind with | .curve => 1 | .palette => 2 | .key => 3) ∧
      byteAt area (2 + 4 * s) = handleByte st.handle ∧
      (if st.kind = .curve then st.option &&& 7 = byteAt area (3 + 4 * s) &&& 7 else st.option = byteAt area (3 + 4 * s))) := by
  unfold stageAt stageKindOf handleOf handleByte
  generalize byteAt area (1 + 4 * s) = k
  generalize byteAt area (2 + 4 * s) = h
  generalize byteAt area (3 + 4 * s) = o
  simp only [List.mem_cons, List.not_mem_nil, or_false]
  by_cases hh : 1 ≤ h.toNat ∧ h.toNat ≤ 10
  · have hb : h = BitVec.ofNat 8 (h.toNat - 1 + 1) := by
      apply BitVec.eq_of_toNat_eq; simp only [BitVec.toNat_ofNat]; have := h.isLt; omega
    simp only [hh, and_self, dite_true]
    by_cases k1 : k = 1
    · subst k1; right; simp [stageOptionOf, BitVec.and_assoc]; exact ⟨by omega, hb⟩
    · by_cases k2 : k = 2
      · subst k2
        by_cases ho : o.toNat ≤ 2
        · right; simp [stageOptionOf, ho]; exact ⟨by omega, hb⟩
        · left; simp [stageOptionOf, ho]; omega
      · by_cases k3 : k = 3
        · subst k3; right; simp [stageOptionOf]; exact ⟨by omega, hb⟩
        · left; rw [if_neg k1, if_neg k2, if_neg k3]; exact ⟨.inl (by tauto), rfl⟩
  · left
    constructor
    · omega
    · rw [dif_neg hh]
      generalize (if k = 1 then some StageKind.curve else _ : Option StageKind) = x
      cases x <;> rfl

/-- A run of stage entries holds an invalid one, or is read entry by entry. -/
theorem stagesFrom_cases (area : List Byte) (n s : Nat) :
    ((∃ j, s ≤ j ∧ j < s + n ∧ stageAt area j = none) ∧ stagesFrom area s n = none) ∨
    ((∀ j, s ≤ j → j < s + n → stageAt area j ≠ none) ∧ ∃ l, stagesFrom area s n = some l ∧ l.length = n ∧
      ∀ (i : Nat) (st : Stage), l[i]? = some st → stageAt area (s + i) = some st) := by
  induction n generalizing s with
  | zero => right; exact ⟨fun j h1 h2 => by omega, [], rfl, rfl, by simp⟩
  | succ n ih =>
      unfold stagesFrom
      cases h : stageAt area s with
      | none => left; exact ⟨⟨s, by omega, by omega, h⟩, rfl⟩
      | some st =>
          rcases ih (s + 1) with ⟨⟨j, a, b, c⟩, e⟩ | ⟨a, l, e, hl, hi⟩
          · left; rw [e]; exact ⟨⟨j, by omega, by omega, c⟩, rfl⟩
          · right
            rw [e]
            refine ⟨fun j h1 h2 => ?_, _, rfl, by simp [hl], ?_⟩
            · rcases Nat.lt_or_ge s j with h3 | h3
              · exact a j h3 (by omega)
              · have : j = s := by omega
                subst this; simp [h]
            · intro i st' hs
              cases i with
              | zero => simpa [h] using hs
              | succ i => have := hi i st' (by simpa using hs); rw [← this]; congr 1; omega

/-- A carried record is invalid and gives nothing, or the configuration then holds it and every other record is as it was. -/
theorem withRecord_cases (c : Configuration) (area : List Byte) (name : RecordName) :
    (RecordInvalid area name ∧ c.withRecord name area = none) ∨
    (¬ RecordInvalid area name ∧ ∃ d, c.withRecord name area = some d ∧ d.Holds area name ∧
      ∀ other, other ≠ name → d.area other = c.area other) := by
  cases name with
  | chain k =>
      simp only [RecordInvalid, Configuration.withRecord, chainOf]
      by_cases hc : (byteAt area 0).toNat ≤ 4
      · rw [if_pos hc]
        rcases stagesFrom_cases area (byteAt area 0).toNat 0 with ⟨⟨j, _, hj, hn⟩, e⟩ | ⟨hall, l, e, hl, hi⟩
        · left
          rw [e]
          refine ⟨.inr ⟨j, by omega, ?_⟩, rfl⟩
          rcases stageAt_cases area j with ⟨a, _⟩ | ⟨_, st, b, _⟩
          · exact a
          · rw [hn] at b; exact absurd b (by simp)
        · right
          rw [e]
          refine ⟨?_, _, rfl, ?_, ?_⟩
          · rintro (h | ⟨j, hj, h⟩)
            · omega
            · rcases stageAt_cases area j with ⟨_, b⟩ | ⟨a, _⟩
              · exact hall j (by omega) (by omega) b
              · exact a h
          · refine ⟨by simpa using hl, ?_⟩
            intro s st hs
            have := hi s st (by simpa using hs)
            rw [Nat.zero_add] at this
            rcases stageAt_cases area s with ⟨_, b⟩ | ⟨_, st', b, h⟩
            · rw [b] at this; exact absurd this (by simp)
            · rw [b] at this; cases this; exact h
          · intro other ho
            cases other with
            | chain k' =>
                have : k.val ≠ k'.val := fun h => ho (by rw [Fin.ext h])
                simp [Configuration.area, Vector.getElem_set_ne, this]
            | region k' => rfl
            | window k' => rfl
      · left; rw [if_neg hc]; exact ⟨.inl (by omega), rfl⟩
  | region k =>
      simp only [RecordInvalid, Configuration.withRecord, regionOf]
      rcases rectAt_cases area 2 with ⟨a, e⟩ | ⟨a, r, e, hr⟩
      · left; rw [e]; exact ⟨.inl a, rfl⟩
      · rw [e]
        by_cases hk : (byteAt area 1).toNat < 4
        · right
          simp only [hk, dite_true]
          refine ⟨by rintro (h | h) <;> [exact a h; omega], _, rfl, ?_, ?_⟩
          · simp [Configuration.Holds, flagAt, hr]
          · intro other ho
            cases other with
            | region k' =>
                have : k.val ≠ k'.val := fun h => ho (by rw [Fin.ext h])
                simp [Configuration.area, Vector.getElem_set_ne, this]
            | chain k' => rfl
            | window k' => rfl
        · left; simp only [hk, dite_false]; exact ⟨.inr (by omega), rfl⟩
  | window k =>
      simp only [RecordInvalid, Configuration.withRecord, windowRecordOf]
      rcases rectAt_cases area 4 with ⟨a, e⟩ | ⟨a, r, e, hr⟩
      · left; refine ⟨.inl a, ?_⟩; rw [e]; cases windowModeOf (byteAt area 0) <;> cases windowActionOf (byteAt area 1) <;> rfl
      · rw [e]
        have hm : (1 < (byteAt area 0).toNat ∧ windowModeOf (byteAt area 0) = none) ∨
            (¬ 1 < (byteAt area 0).toNat ∧ ∃ m, windowModeOf (byteAt area 0) = some m ∧ (m = .check ↔ byteAt area 0 = 1)) := by
          generalize byteAt area 0 = b; revert b; decide +revert
        have hact : (1 < (byteAt area 1).toNat ∧ windowActionOf (byteAt area 1) = none) ∨
            (¬ 1 < (byteAt area 1).toNat ∧ ∃ m, windowActionOf (byteAt area 1) = some m ∧ (m = .fallback ↔ byteAt area 1 = 1)) := by
          generalize byteAt area 1 = b; revert b; decide +revert
        rcases hm with ⟨h, e1⟩ | ⟨h, m, e1, hm⟩
        · left; rw [e1]; exact ⟨.inr (.inl h), rfl⟩
        rcases hact with ⟨h', e2⟩ | ⟨h', m', e2, hm'⟩
        · left; rw [e1, e2]; exact ⟨.inr (.inr (.inl h')), rfl⟩
        rw [e1, e2]
        dsimp only
        split
        · rename_i ht
          right
          refine ⟨by rintro (h1 | h1 | h1 | h1 | h1) <;> [exact a h1; exact h h1; exact h' h1; omega; omega], _, rfl, ?_, ?_⟩
          · simp only [Configuration.Holds, Vector.getElem_set_self, flagAt, hm, hm', hr, true_and, and_true]
            simp only [BitVec.extractLsb'_toNat]; simp; omega
          · intro other ho
            cases other with
            | window k' =>
                have : k.val ≠ k'.val := fun h => ho (by rw [Fin.ext h])
                simp [Configuration.area, Vector.getElem_set_ne, this]
            | region k' => rfl
            | chain k' => rfl
        · left; exact ⟨by omega, rfl⟩

end Sys2Proof.Machine
end

