-- ==== Sys2Proof/Tests/Slice0.lean ====
section
/-! SUPPORT. Tests: the well-formedness check refuses ill-formed terms; check values of the two CRCs; one-step tests of
the meanings, most from the spec's worked sequences; and, for every statement with hypotheses, a concrete state and
operands that meet them, at the boundaries of each clause. -/

namespace Sys2Proof.Tests

open Sys2Proof.Machine

set_option maxRecDepth 20000

/-! ### Small states -/

/-- The next state of an outcome. -/
def nextOf : Host.Outcome State Fault Refusal → Option State
  | .next t => some t
  | .fault _ => none
  | .refused _ => none

/-- A property of the next state. -/
def gives (o : Host.Outcome State Fault Refusal) (p : State → Bool) : Bool := (nextOf o).any p

/-- The part with address 1, in HUNT with its signal seen, kinds masked so that no EV joins the own queue. -/
def quiet : State :=
  { State.reset with
    address := 1, events := ⟨0, 0, 0x7FF⟩,
    rx := { LaneReceiver.initial with state := .hunt, timer := some 40 } }

/-- `quiet` in a frame of width 2 and height 1, its one line taken: at an FE of 1 the frame is clean. -/
def inFrame : State :=
  { quiet with rx := { quiet.rx with
      state := .frame, boundarySeen := true, lastFrame := 500, lastBoundary := 500, width := 2, height := 1,
      linesTaken := 1 } }

/-- A command packet for address 1. -/
def command (code : Byte) (payload : List Byte) : CommandPacket := ⟨1, 0x77, code, payload⟩

/-- A state with a command at the head of its queue. -/
def State.headed (s : State) (code : Byte) (payload : List Byte) : State :=
  { s with cmd := ⟨[command code payload], 0, 0, false⟩ }

/-- A state with one handle's record. -/
def State.handled (s : State) (h : Handle) (r : HandleRecord) : State :=
  { s with banks := s.banks.modify h fun _ => r }

/-- A handle record with an active side in bank 0. -/
def activeOnly : HandleRecord := { HandleRecord.empty with active := some ⟨0, 2, false⟩ }

/-- A handle record with a staged side in bank 1. -/
def stagedOnly (st : StagedState) : HandleRecord :=
  { HandleRecord.empty with staged := some ⟨1, 0, false⟩, stagedState := st }

/-- The last message of the own queue is a reply of this status and payload. -/
def replied (status : Status) (payload : List Byte) (t : State) : Bool :=
  match t.ret.own.getLast? with
  | some (.reply r) => decide (r.status = status ∧ r.payload = payload ∧ r.tag = 0x77)
  | _ => false

/-- A head command and its reply. -/
def answers (c : Instr) (s : State) (status : Status) (payload : List Byte) : Bool :=
  gives (exec c s) fun t => replied status payload t && decide (t.cmd.queue = [] ∧ t.cmd.slots = 1)

/-! ### Ill-formed terms -/

theorem test_wellFormed_fs_zero_width : Instr.wellFormed (.fs 0 0 1) = false := by decide
theorem test_wellFormed_fs_tall : Instr.wellFormed (.fs 0 1 4097) = false := by decide
theorem test_wellFormed_ln_number : Instr.wellFormed (.ln 4096 [0]) = false := by decide
theorem test_wellFormed_ln_empty : Instr.wellFormed (.ln 0 []) = false := by decide
theorem test_wellFormed_fe : Instr.wellFormed (.fe 4097) = false := by decide
theorem test_wellFormed_cm : Instr.wellFormed (.cm 1 0 2 (List.replicate 137 0)) = false := by decide
theorem test_wellFormed_bad : Instr.wellFormed (.badPacket [0x00, 0xE1, 0xF0]) = false := by decide
theorem test_wellFormed_malformed : Instr.wellFormed (.malformedForwardPacket [0x00, 0xE1, 0xF0]) = false := by decide
theorem test_wellFormed_good : Instr.wellFormed (.fs 0 4096 4096) = true ∧ Instr.wellFormed (.badPacket [0x11]) = true ∧
    Instr.wellFormed (.malformedForwardPacket (withCrc [0x55])) = true := by decide

/-! ### Checks and encodings -/

/-- The check value of the CRC-16 for the nine digits (R176). -/
theorem test_crc16_check : crc16 [0x31, 0x32, 0x33, 0x34, 0x35, 0x36, 0x37, 0x38, 0x39] = 0x29B1 := by decide

/-- A FILL is 00h, E1h, F0h on both lanes (R176). -/
theorem test_fill_bytes : encodePacket .fill = [0x00, 0xE1, 0xF0] ∧ returnFiller = [0x00, 0xE1, 0xF0] := by decide

theorem test_parity : parityOf ⟨1, 3, 0x3FF⟩ = true ∧ parityOf Triple.zero = false := by decide

theorem test_pixelWord : tripleOfWord 0xFFF00401 = ⟨1023, 1, 1⟩ ∧ wordOfTriple ⟨1023, 1, 1⟩ = 0x3FF00401 := by decide

/-- A store lists a word, and storing what an unlisted word reads as takes it out again. -/
theorem test_store_canonical :
    writeWord [] 1 3 ⟨1, 0, 0⟩ = [(1027, ⟨⟨1, 0, 0⟩, true⟩)] ∧ writeWord (writeWord [] 1 3 ⟨1, 0, 0⟩) 1 3 Triple.zero = [] := by
  decide

/-! ### One step of each kind -/

theorem test_reset_release : gives (exec .resetRelease { quiet with resetHeld := true }) (fun t => !t.resetHeld) = true := by
  decide

/-- How much of the message had left is a free value; that it is cut off is not. -/
theorem test_powerOn : gives (exec .powerOnReset { inFrame with ret := { inFrame.ret with pass := [[1]], sending := some .pass } })
    (fun t => t.resetHeld && t.upOut.all (fun p => !p.whole) &&
      decide (t.rx = LaneReceiver.initial ∧ t.upOut.length = 1 ∧ t.address = 0)) = true := by
  decide

/-- The idle return lane's FILL is cut off too; while the pin is asserted already there is nothing to cut. -/
theorem test_powerOn_idle :
    gives (exec .powerOnReset quiet) (fun t => t.upOut.all (fun p => !p.whole) && decide (t.upOut.length = 1)) = true ∧
    gives (exec .powerOnReset { quiet with resetHeld := true }) (fun t => decide (t.upOut = [])) = true := by decide

/-- A FILL that has just been handed to the lane may be cut off; nothing that left before the last reset is. -/
theorem test_powerOn_forward : gives (exec .powerOnReset { quiet with downOut := [⟨[1], true⟩], downHanded := 0 })
    (fun t => decide (t.downOut = [⟨[1], true⟩] ∧ t.downHanded = 0 ∧ t.resets = 1)) = true := by
  simp [exec, execPowerOnReset, State.powerOn, State.forwardCutOff, gives, nextOf, quiet, State.reset, State.stopRunning]

theorem test_boundary : gives (exec (.fs 501 2 1) quiet) (fun t => decide (t.rx.state = .frame ∧ t.rx.lastBoundary = 501)) =
    true := by decide

theorem test_overrun : gives (exec (.fs 501 2 1) inFrame)
    (fun t => decide (t.rx.lastBoundary = 500 ∧ t.rx.lastFrame = 501 ∧ t.rx.brokenFrames = 1)) = true := by decide

theorem test_line_bypass : gives (exec (.ln 0 [5, 6]) { inFrame with rx := { inFrame.rx with linesTaken := 0 } })
    (fun t => decide (t.rx.linesTaken = 1 ∧ t.rx.broken = false) && decide (t.downOut = [⟨encodePacket (.ln 0 [5, 6]), true⟩])) =
    true := by decide

theorem test_frame_end : gives (exec (.fe 1) inFrame)
    (fun t => decide (t.rx.state = .blank ∧ t.rx.brokenFrames = 0 ∧ t.creditDue = true)) = true := by decide

theorem test_frame_end_broken : gives (exec (.fe 2) inFrame) (fun t => decide (t.rx.brokenFrames = 1)) = true := by decide

theorem test_cm_taken : gives (exec (.cm 1 2 3 [4]) quiet) (fun t => decide (t.cmd.queue = [⟨1, 2, 3, [4]⟩] ∧ t.downOut = [])) =
    true := by decide

theorem test_cm_broadcast : gives (exec (.cm 63 2 3 [4]) quiet) (fun t => decide (t.cmd.queue.length = 1 ∧ t.downOut.length = 1)) =
    true := by decide

theorem test_cr_rejected : gives (exec (.cr 17) quiet) (fun t => decide (t.ret.upGrant = 0 ∧ t.rx.linkErrors = 1)) = true := by
  decide

theorem test_link_reset : gives (exec .linkReset inFrame)
    (fun t => decide (t.rx.state = .hunt ∧ t.rx.brokenFrames = 1 ∧ t.creditDue = true ∧ t.ret.downGrant = 16)) = true := by
  decide

theorem test_bad_line_breaks_frame : gives (exec (.badPacket [0x11]) inFrame)
    (fun t => decide (t.rx.broken = true ∧ t.rx.linkErrors = 1 ∧ t.downOut = [⟨[0x11], true⟩])) = true := by decide

theorem test_malformed : gives (exec (.malformedForwardPacket (withCrc [0x55])) quiet) (fun t => decide (t.rx.linkErrors = 1)) =
    true := by decide

theorem test_signal_loss : gives (exec .signalLossExpiry inFrame)
    (fun t => decide (t.rx.state = .noSignal ∧ t.rx.timer = none ∧ t.rx.brokenFrames = 1)) = true := by decide

theorem test_return_message : gives (exec (.returnPacket [1, 2, 3, 4]) quiet)
    (fun t => decide (t.ret.pass = [[1, 2, 3, 4]] ∧ t.ret.downReceived = 1 ∧ t.rx.linkErrors = 1)) = true := by decide

theorem test_copy_absent : gives (exec .copyJobEnd quiet) (fun t => decide (t = quiet)) = true := by decide

theorem test_message_begun : gives (exec .messageBegun { quiet with ret := { quiet.ret with upGrant := 1, pass := [[1]] } })
    (fun t => decide (t.ret.sending = some .pass ∧ t.ret.upSent = 1)) = true := by decide

theorem test_message_sent : gives (exec .messageSent { quiet with ret := { quiet.ret with sending := some .pass, pass := [[1]] } })
    (fun t => decide (t.ret.downGrant = 17 ∧ t.creditDue = true ∧ t.upOut = [⟨[1], true⟩])) = true := by decide

theorem test_ev_queued : gives (exec .evQueued { quiet with events := ⟨1, 0, 0⟩ })
    (fun t => decide (t.events = ⟨1, 1, 0⟩ ∧ t.ret.own.length = 1)) = true := by decide

theorem test_announcement : gives (exec .creditAnnouncement { quiet with creditDue := true })
    (fun t => decide (t.downOut = [⟨encodePacket (.cr 16), true⟩] ∧ t.creditDue = false)) = true := by decide

theorem test_unknown : answers .unknownCommand (State.headed quiet 0x99 [1]) .unknownCommand [] = true := by decide
theorem test_setMode : answers .setMode (State.headed quiet 0x10 [1]) .ok [] = true := by decide
theorem test_setMode_fallback : answers .setMode (State.headed quiet 0x10 [2]) .badArgument [] = true := by decide
theorem test_release : answers .releaseTable (State.headed (State.handled quiet 3 activeOnly) 0x25 [4]) .ok [4, 0] = true := by
  decide
theorem test_open : gives (exec .openTable (State.headed quiet 0x20 [1, 0]))
    (fun t => decide (t.jobs = [⟨.fill 0, 0x77, 0x20⟩] ∧ t.banks.free.length = 15 ∧ t.cmd.slots = 1)) = true := by decide
theorem test_write : answers .writeTable
    (State.headed (State.handled quiet 0 (stagedOnly .opened)) 0x21 [1, 0, 0, 0, 0, 7, 1, 0, 0, 0, 0, 1]) .ok [1, 0, 0, 1] =
    true := by decide
theorem test_close : gives (exec .closeTable
    (State.headed (State.handled quiet 0 (stagedOnly .opened)) 0x22 [1, 0, 0, 2, 0, 0, 0, 9]))
    (fun t => decide (t.jobs = [⟨.check 0 9 2, 0x77, 0x22⟩])) = true := by decide
theorem test_discard : answers .discardTable (State.headed (State.handled quiet 0 (stagedOnly .loaded)) 0x23 [1]) .ok [1] =
    true := by decide
theorem test_scrub : gives (exec .scrubBank (State.headed { quiet with banks := { quiet.banks with quarantine := [5] } } 0x24 [5]))
    (fun t => decide (t.jobs = [⟨.scrub 5, 0x77, 0x24⟩])) = true := by decide
theorem test_writeConfig_region : answers .writeConfig
    (State.headed quiet 0x30 ([1, 5, 1, 3] ++ [0, 0, 0, 0, 0, 9, 0, 9] ++ zeros 10)) .ok [1, 5] = true := by decide
theorem test_readConfig : answers .readConfig (State.headed quiet 0x31 [0, 0, 3]) .ok ([0, 0, 3, 0] ++ zeros 20) = true := by
  decide
/-- Every READ_CONFIG reply with a payload reports the freeze flag, a refusal too (R70). -/
theorem test_readConfig_refused : answers .readConfig
    (State.headed { quiet with cfg := { quiet.cfg with frozen := true } } 0x31 [3, 0, 0]) .badArgument
    ([0, 0, 0, 1] ++ zeros 20) = true := by decide
/-- Every READ_TABLE reply for a handle reports its lookup fault count, a refusal too (R19; log 32). -/
theorem test_readTable_refused : answers .readTable
    (State.headed (State.handled quiet 0 { HandleRecord.empty with faultCount := 7 }) 0x26 [1, 0, 0, 0, 1]) .wrongState
    (zeros 6 ++ [7] ++ zeros 5) = true := by decide
theorem test_commit : answers .commit (State.headed (State.handled inFrame 0 (stagedOnly .loaded)) 0x32 [1, 2, 0, 0, 2, 0, 0])
    .ok [1, 2, 0, 1, 0xF4, 1, 0, 0] = true := by decide
theorem test_commit_past : answers .commit
    (State.headed (State.handled inFrame 0 (stagedOnly .loaded)) 0x32 [1, 1, 0xF4, 0, 2, 0, 0]) .targetPast
    [0, 0, 0, 1, 0xF4, 1, 0, 0] = true := by decide
theorem test_cancel : answers .cancelCommit (State.headed quiet 0x33 []) .wrongState [0, 0] = true := by decide
theorem test_confirm : answers .confirmCommit
    (State.headed { quiet with commit := { quiet.commit with state := .guarding, guardCounter := 3 } } 0x34 []) .ok [0, 0] =
    true := by decide
theorem test_rollback : answers .rollbackCommit
    (State.headed { quiet with commit := { quiet.commit with state := .guarding, guardCounter := 3 } } 0x35 []) .ok [3, 3] =
    true := by decide
theorem test_guardOutcome : gives (exec .guardOutcome
    { quiet with commit := { quiet.commit with state := .guarding, guardCounter := 3, handed := [.counted] } })
    (fun t => decide (t.commit.guardCounter = 2 ∧ t.commit.handed = [])) = true := by decide
theorem test_capture : gives (exec .captureSignature (State.headed quiet 0x40 [1, 0, 0, 0, 0, 0, 9, 0, 9]))
    (fun t => decide (t.sig.capture = .armed ⟨.output, ⟨0, 0, 9, 9⟩, 0x77, 0x40, 0⟩)) = true := by decide
theorem test_readWindow : answers .readWindow (State.headed quiet 0x41 [3]) .ok
    ([3, 0] ++ [0, 0, 1, 0] ++ zeros 12 ++ zeros 12) = true := by decide
theorem test_setLinkOptions : answers .setLinkOptions (State.headed quiet 0x04 [0]) .badArgument [0] = true := by decide
theorem test_identify : answers .identify (State.headed quiet 0x01 []) .ok [0x4C, 0x31, 2, 1, 16, 10, 4, 4, 6, 4] = true := by
  decide
theorem test_readStatus : answers .readStatus (State.headed quiet 0x02 []) .ok
    ([0, 0xFF, 1, 0, 0, 0, 0, 0, 0, 0, 16, 0, 0, 0] ++ zeros 16 ++ [0, 0]) = true := by decide
theorem test_ackEvents : answers .ackEvents (State.headed { quiet with events := ⟨3, 1, 0x7FF⟩ } 0x05 [0, 1]) .ok
    [0, 2, 7, 0xFF] = true := by decide
theorem test_setEventMask : answers .setEventMask (State.headed quiet 0x06 [8, 0]) .badArgument [0, 0, 0, 0] = true := by
  decide
theorem test_claimAddress : answers .claimAddress (State.headed quiet 0x03 [7]) .ok [1, 7] = true := by decide

/-! ### A state that satisfies every law -/

/-- Handle 1 with an active side in bank 0 and a FILL running on its staged bank 1; handle 2 committing in a pending
commit, with an active side in bank 3; a guard-free active configuration that names handle 1; a word in each of two
banks; a reply waiting; a FILL packet next. -/
def busy : State :=
  { quiet with
    mem := [(5, ⟨⟨1, 2, 3⟩, parityOf ⟨1, 2, 3⟩⟩), (1027, ⟨⟨1, 0, 0⟩, true⟩)],
    banks :=
      { handles := (Vector.replicate 10 HandleRecord.empty |>.set 0 { activeOnly with
          staged := some ⟨1, 0, false⟩, stagedState := .filling }) |>.set 1 { HandleRecord.empty with
          active := some ⟨3, 0, true⟩, staged := some ⟨2, 0, false⟩, stagedState := .committing },
        free := [6, 7, 8, 9, 10, 11, 12, 13, 14, 15], quarantine := [4], withdrawn := [5] },
    jobs := [⟨.fill 0, 9, 0x20⟩],
    cfg := { quiet.cfg with active := { Configuration.initial with chains := #v[[⟨.curve, 0, 7⟩], [], [], []] } },
    commit := { quiet.commit with state := .pending, pendingCommit := some ⟨.next, 2, false, 3⟩ },
    cmd := ⟨[], 2, 0, false⟩,
    ret := { quiet.ret with own := [.reply ⟨1, 8, 2, .ok, []⟩] },
    pending := [.fill] }

theorem test_busy_memory : MemoryLaw busy := ⟨by decide, by decide⟩

theorem test_busy_banks : BankInv busy where
  conserved := by decide
  staged := by decide
  jobs := ⟨by decide, by decide, by decide, by decide, by decide, by decide⟩
  commit := ⟨by decide, by decide, by decide, by decide, by decide, by decide, fun p hp => by
    obtain rfl := Option.some.inj hp; decide⟩

theorem test_busy_references : ReferenceIntegrity busy where
  active := by decide
  saved := fun c hc => by cases hc
  future := fun p hp => by obtain rfl := Option.some.inj hp; decide

theorem test_busy_slots : SlotLaw busy := ⟨by decide, by decide, by decide⟩

theorem test_busy_link : CreditLaw busy ∧ EventLaw busy ∧ ReceiverLaw busy :=
  ⟨⟨by decide, by decide, by decide⟩, ⟨by decide, by decide, by decide⟩,
    { timer := by decide, setting := by decide, size := fun h => absurd h (by decide), lines := by decide,
      unknown := by decide, capture := (fun _ _ h => nomatch h), address := by decide }⟩

/-- `busy` steps, and a handle's active bank is there to be watched. -/
theorem test_busy_steps : (∃ t, step busy = .next t) ∧ busy.pending = [.fill] ∧ busy.resetHeld = false ∧
    Instr.wellFormed .fill = true ∧ (busy.banks.record 1).active = some ⟨3, 0, true⟩ := ⟨⟨_, rfl⟩, by decide⟩

/-! ### Witnesses: resets -/

theorem witness_step_queue : busy.pending = .fill :: [] ∧ quiet.pending = [] := by decide

theorem witness_runningBank : busy.runningBank = some 1 ∧ busy.runningBank ≠ some 0 := by decide

theorem witness_pin_held : ({ quiet with resetHeld := true } : State).resetHeld = true ∧ Instr.fill ≠ .powerOnReset ∧
    Instr.fill ≠ .resetRelease := by decide

theorem witness_link_reset : busy.resetHeld = false ∧ busy.banks.StagedAgrees ∧ inFrame.resetHeld = false ∧
    inFrame.banks.StagedAgrees := by decide

/-! ### Witnesses: forward packets -/

/-- R121 at the bounds of its list: lines sent, declared width, line number, pixel count, payload length. -/
theorem test_malformed_bounds :
    classify (withCrc [0x12, 0x10, 0x00]) = .good (.fe 4096) ∧ classify (withCrc [0x12, 0x10, 0x01]) = .malformed ∧
    classify (withCrc [0x10, 0, 0, 0, 0, 0, 1]) = .malformed ∧ classify (withCrc [0x10, 0, 0, 0x10, 0, 0, 1]) = .good (.fs 0 4096 1) ∧
    classify (withCrc [0x11, 0x10, 0, 0, 1, 0, 0, 0, 0]) = .malformed ∧ classify (withCrc [0x11, 0, 0, 0, 0]) = .malformed ∧
    classify (withCrc [0x11, 0x0F, 0xFF, 0, 1, 0, 0, 0, 7]) = .good (.ln 4095 [7]) ∧
    classify (withCrc [0x20, 1, 0, 2, 1]) = .malformed ∧ classify (withCrc [0x00, 0]) = .malformed := by decide

theorem witness_packets_in_range : fieldsInRange (.fs 0 1 4096) = true ∧ fieldsInRange (.fs 0 4096 1) = true ∧
    fieldsInRange (.ln 4095 [7]) = true ∧ fieldsInRange (.fe 4096) = true ∧
    fieldsInRange (.cm ⟨0, 0, 0, List.replicate 136 1⟩) = true ∧ fieldsInRange (.cr 255) = true := by decide

theorem witness_bad_malformed : quiet.resetHeld = false ∧ classify [0x11, 0, 0] = .bad ∧ classify [] = .bad ∧
    classify (withCrc [0x11]) = .malformed ∧ classify (withCrc [0x55]) = .malformed := by decide

/-- Window 0 in CHECK with a capture ARMED. -/
def watched : State :=
  { quiet with
    cfg := { quiet.cfg with active := { Configuration.initial with
      windows := Configuration.initial.windows.set 0 ⟨.check, ⟨0, 0, 1, 0⟩, 0, 1, .fallback, true⟩ } },
    sig := { quiet.sig with capture := .armed ⟨.input, ⟨0, 0, 1, 0⟩, 1, 0x40, 0⟩ } }

theorem witness_boundary : watched.resetHeld = false ∧ watched.rx.state ≠ .frame ∧ State.reset.rx.state ≠ .frame ∧
    fieldsInRange (.fs 65535 4096 1) = true ∧ watched.cfg.active.windows[0].mode = .check ∧
    watched.sig.capture = .armed ⟨.input, ⟨0, 0, 1, 0⟩, 1, 0x40, 0⟩ := by decide

theorem witness_pendingMode : inFrame.resetHeld = false ∧ inFrame.rx.state = .frame ∧ quiet.rx.state ≠ .frame ∧
    quiet.pix.pendingMode = none ∧
    ({ quiet with pix := ⟨.active, some .fallback⟩ } : State).pix.pendingMode = some .fallback := by decide

theorem witness_overrun : inFrame.resetHeld = false ∧ inFrame.rx.state = .frame ∧ fieldsInRange (.fs 0 1 1) = true ∧
    ({ inFrame with sig := watched.sig } : State).sig.capture = .armed ⟨.input, ⟨0, 0, 1, 0⟩, 1, 0x40, 0⟩ := by decide

/-- A pending commit at the boundary: NEXT; AT with the boundary 32767 past the target; AT with it 32768 past. -/
theorem witness_commit_applied : busy.resetHeld = false ∧ busy.rx.state ≠ .frame ∧ busy.commit.state = .pending ∧
    busy.commit.pendingCommit = some ⟨.next, 2, false, 3⟩ ∧ ((32767 : Half) - 0).toNat < 32768 ∧
    32768 ≤ ((32768 : Half) - 0).toNat ∧
    (let s := { busy with commit := { busy.commit with pendingCommit := some ⟨.at 0, 2, false, 0⟩ } }
     s.commit.pendingCommit = some ⟨.at 0, 2, false, 0⟩ ∧ s.commit.state = .pending ∧ s.rx.state ≠ .frame) := by decide

/-- GUARDING with handle 1 retained and handle 2 of the guarded set without a retained side. -/
def guarded : State :=
  { State.handled (State.handled quiet 0 { HandleRecord.empty with active := some ⟨2, 0, false⟩, retained := some ⟨0, 0, false⟩ })
      1 { HandleRecord.empty with active := some ⟨1, 0, true⟩ } with
    cfg := { quiet.cfg with saved := some Configuration.initial },
    commit := { quiet.commit with state := .guarding, guardedSet := some 3, guardCounter := 1 } }

theorem witness_rollback_applied :
    (let s := { guarded with commit := { guarded.commit with state := .rollbackPending } }
     s.resetHeld = false ∧ s.rx.state ≠ .frame ∧ s.commit.state = .rollbackPending ∧ s.commit.guardedSet = some 3 ∧
       s.cfg.saved = some Configuration.initial ∧ ({ s with rx := inFrame.rx } : State).rx.state = .frame) ∧
    fieldsInRange (.fs 0 1 1) = true := by decide

theorem witness_frame_line : inFrame.resetHeld = false ∧ inFrame.rx.state = .frame ∧ inFrame.pix.mode ≠ .active ∧
    ({ inFrame with pix := ⟨.fallback, none⟩ } : State).pix.mode ≠ .active ∧
    ({ inFrame with pix := ⟨.active, none⟩ } : State).pix.mode = .active ∧ fieldsInRange (.ln 4095 [0]) = true := by decide

/-- A region that takes positions 1 to 3 of lines 2 to 4: its corners, and positions just outside. -/
theorem witness_regions :
    let r : Region := ⟨true, ⟨1, 2, 3, 4⟩, 2⟩
    r.enabled = true ∧ r.rect.contains 1 2 = true ∧ r.rect.contains 3 4 = true ∧ r.rect.contains 0 2 = false ∧
      r.rect.contains 4 4 = false ∧ r.rect.contains 1 5 = false := by decide

/-- The first of two pixels meets a fault at read 0; the reads of the second, number 1 alone, are sound. -/
theorem witness_pixels :
    let disturb (n : Nat) : Option Triple := if n = 0 then some ⟨1, 1, 1⟩ else none
    let c := { Configuration.initial with chains := #v[[⟨.palette, 0, 0⟩], [], [], []] }
    let look : Lookup := ⟨0, (State.handled quiet 0 activeOnly).banks.handles, none⟩
    let run (pixels : List Triple) := transformFrom disturb [] c 0 0 look pixels
    Memory.Sound [] ∧ (run [⟨5, 5, 5⟩]).2.reads = 1 ∧ (run [⟨5, 5, 5⟩, ⟨6, 6, 6⟩]).2.reads = 2 ∧ disturb 1 = none ∧
      (run [⟨5, 5, 5⟩, ⟨6, 6, 6⟩]).1 = [⟨5, 5, 5⟩, Triple.zero] ∧
      ((run [⟨5, 5, 5⟩, ⟨6, 6, 6⟩]).2.handles[0]).faultCount = 1 ∧ (run [⟨5, 5, 5⟩, ⟨6, 6, 6⟩]).2.faulted = true := by decide

/-- A stage of each kind that meets a fault, at its only or its last read, and one that does not. -/
theorem witness_stage_fault :
    let faultAt (k n : Nat) : Option Triple := if n = k then some ⟨1, 1, 1⟩ else none
    let key (pass : Bool) : Memory := writeWord [] 0 3 ⟨if pass then 0x220 else 0x200, 0, 0⟩
    let run (disturb : Nat → Option Triple) (m : Memory) (kind : StageKind) (option : Byte) : StageResult :=
      runStage disturb m (some ⟨0, 1, false⟩) ⟨kind, 0, option⟩ ⟨9, 9, 9⟩ 0
    run (faultAt 0) [] .palette 0 = ⟨⟨9, 9, 9⟩, true, 1⟩ ∧ run (faultAt 1) [] .palette 0 = ⟨Triple.zero, false, 1⟩ ∧
    run (faultAt 1) [] .curve 5 = ⟨⟨9, 9, 9⟩, true, 2⟩ ∧ run (faultAt 2) [] .curve 5 = ⟨⟨0, 9, 0⟩, false, 2⟩ ∧
    run (faultAt 1) (key false) .key 0 = ⟨⟨9, 9, 9⟩, true, 2⟩ ∧ run (faultAt 1) (key true) .key 0 = ⟨⟨9, 9, 9⟩, false, 1⟩ := by decide

/-- The pixels of a line of three that a rectangle takes: position 1 on, up to the end of the line; none of another line. -/
theorem test_lineFed : lineFed ⟨1, 2, 9, 2⟩ 2 [⟨1, 0, 0⟩, ⟨2, 0, 0⟩, ⟨3, 0, 0⟩] = [⟨2, 0, 0⟩, ⟨3, 0, 0⟩] ∧
    lineFed ⟨1, 2, 9, 2⟩ 3 [⟨1, 0, 0⟩, ⟨2, 0, 0⟩] = [] := by decide

theorem witness_outside_frame :
    ({ quiet with rx := { quiet.rx with state := .blank } } : State).rx.state = .blank ∧ quiet.rx.state = .hunt ∧
    State.reset.rx.state = .noSignal ∧ State.reset.resetHeld = false ∧ fieldsInRange (.ln 0 [0]) = true ∧
    fieldsInRange (.fe 0) = true := by decide

/-- A clean frame in ACTIVE, four windows: OFF, in CHECK without room (x1 equal to the width), matching and mismatching at
the last position that fits. -/
def judged : State :=
  { inFrame with
    pix := ⟨.active, none⟩,
    cfg := { quiet.cfg with active := { Configuration.initial with windows := #v[
      ⟨.off, ⟨0, 0, 0, 0⟩, 0, 1, .report, false⟩, ⟨.check, ⟨0, 0, 2, 0⟩, 0, 1, .report, true⟩,
      ⟨.check, ⟨0, 0, 1, 0⟩, 0xFFFFFFFF, 1, .report, true⟩, ⟨.check, ⟨0, 0, 1, 0⟩, 7, 15, .fallback, false⟩] } },
    sig := { quiet.sig with checkers := quiet.sig.checkers.set 3 { WindowChecker.initial with count := 14 } } }

theorem witness_clean_end : judged.resetHeld = false ∧ judged.rx.state = .frame ∧ judged.rx.broken = false ∧
    judged.rx.linesTaken = judged.rx.height.toNat ∧ fieldsInRange (.fe judged.rx.height) = true ∧
    judged.pix.mode = .active ∧ judged.cfg.active.windows[1].rect.x1.toNat + 1 = judged.rx.width.toNat + 1 ∧
    judged.cfg.active.windows[2].rect.x1.toNat + 1 = judged.rx.width.toNat ∧
    judged.sig.checkers[2].running = judged.cfg.active.windows[2].expected ∧
    judged.sig.checkers[3].running ≠ judged.cfg.active.windows[3].expected := by decide

/-- The verdicts of `judged`: window 3 qualifies for fallback at its threshold of 15, and member 1 is skipped. -/
theorem witness_verdicts : judged.verdict 0 = .notJudged ∧ judged.verdict 1 = .skipped ∧ judged.verdict 2 = .matched ∧
    judged.verdict 3 = .mismatched ∧ judged.qualifies 3 = true ∧ judged.guardOutcome = .notCounted ∧
    watched.qualifies 0 = false := by decide

/-- `judged` in GUARDING, with another of its windows as the guard member as well: an outcome of each kind. -/
def judgedGuard (members : Fin 4 → Bool) : State :=
  let w (k : Fin 4) : WindowRecord := { judged.cfg.active.windows[k.val] with guardMember := members k }
  { judged with
    cfg := { judged.cfg with active := { judged.cfg.active with windows := #v[w 0, w 1, w 2, w 3] }, saved := some Configuration.initial },
    commit := { judged.commit with state := .guarding, guardedSet := some 0, guardCounter := 2 } }

/-- In GUARDING: member 3 mismatched, so FAILED and no fallback; member 1 skipped, so NOT_COUNTED, and window 3, no member,
qualifies; member 2 matched, so COUNTED. -/
theorem witness_outcomes :
    let s (k : Fin 4) := judgedGuard (fun j => decide (j = k))
    let outcome (k : Fin 4) (o : GuardOutcome) (pending : Option Mode) : Bool :=
      gives (exec (.fe 1) (s k)) fun t => decide (t.commit.handed = [o] ∧ t.pix.pendingMode = pending)
    (∀ k, (s k).resetHeld = false ∧ (s k).rx.state = .frame ∧ (s k).rx.broken = false ∧ (s k).pix.mode = .active ∧
      (s k).rx.linesTaken = (s k).rx.height.toNat ∧ (s k).commit.state = .guarding ∧ (s k).rx.height = 1) ∧
    outcome 3 .failed none = true ∧ outcome 1 .notCounted (some .fallback) = true ∧ outcome 2 .counted (some .fallback) = true := by
  decide

/-- Not clean: the FE of 2 for a frame of height 1; and a clean one outside ACTIVE. -/
theorem witness_frame_end : inFrame.rx.state = .frame ∧ fieldsInRange (.fe 2) = true ∧ (2 : Half) ≠ inFrame.rx.height ∧
    inFrame.pix.mode ≠ .active := by decide

/-- A RUNNING capture that fits, and one that does not, at attempts 2 (the next is the third) and 3 (the fourth). -/
theorem witness_capture_running :
    (let s := { inFrame with sig := { quiet.sig with capture := .running ⟨.input, ⟨0, 0, 1, 0⟩, 1, 0x40, 2⟩ 5 } }
     s.sig.capture = .running ⟨.input, ⟨0, 0, 1, 0⟩, 1, 0x40, 2⟩ 5 ∧ s.rx.state = .frame ∧ s.resetHeld = false ∧
       s.rx.timer ≠ none) ∧ (⟨0, 0, 1, 0⟩ : Rect).within 2 1 = true ∧ (⟨0, 0, 2, 0⟩ : Rect).within 2 1 = false ∧
    2 + 1 < 4 ∧ 4 ≤ 3 + 1 := by decide

theorem witness_signal_loss : State.reset.rx.state = .noSignal ∧ quiet.rx.timer ≠ none ∧ quiet.rx.state = .hunt ∧
    inFrame.rx.timer ≠ none ∧ inFrame.rx.state = .frame := by decide

theorem witness_cm : quiet.resetHeld = false ∧ (List.replicate 136 (0 : Byte)).length ≤ 136 ∧
    (1 : Byte).extractLsb' 0 6 = quiet.address ∧ (63 : Byte).extractLsb' 0 6 = 63 ∧
    (2 : Byte).extractLsb' 0 6 ≠ quiet.address := by decide

/-- The totals of a CR that is kept and of one that is not, at the bound of 16; a due announcement. -/
theorem witness_credit : ((16 : Byte) - quiet.ret.upSent).toNat ≤ 16 ∧ ¬ ((17 : Byte) - quiet.ret.upSent).toNat ≤ 16 ∧
    ({ quiet with creditDue := true } : State).creditDue = true := by decide

/-! ### Witnesses: the return lane -/

theorem witness_return : crcCorrect [0x00, 0xE1, 0xF0] = true ∧ (quiet.ret.downGrant - quiet.ret.downReceived).toNat = 16 ∧
    crcCorrect (withCrc [0x40, 1, 2, 3, 0, 0]) = true ∧ (withCrc [0x40, 1, 2, 3, 0, 0]).length = 8 := by decide

theorem witness_begun :
    (let s := { quiet with ret := { quiet.ret with upGrant := 1, own := busy.ret.own, pass := [[1]], lastServed := .pass } }
     s.resetHeld = false ∧ s.ret.sending = none ∧ s.ret.upGrant - s.ret.upSent ≠ 0 ∧ s.ret.own ≠ [] ∧ s.ret.pass ≠ [] ∧
       s.ret.lastServed = .pass) ∧
    (let s := { quiet with ret := { quiet.ret with upGrant := 1, own := busy.ret.own, pass := [[1]], lastServed := .own } }
     s.ret.pass ≠ [] ∧ s.ret.lastServed = .own ∧ s.ret.upGrant - s.ret.upSent ≠ 0) := by decide

theorem witness_sent :
    (let s := { quiet with ret := { quiet.ret with own := busy.ret.own, sending := some .own } }
     s.ret.sending = some .own ∧ s.ret.own = .reply ⟨1, 8, 2, .ok, []⟩ :: []) ∧
    (let s := { quiet with ret := { quiet.ret with own := [.event quiet.eventMessage], sending := some .own } }
     s.ret.sending = some .own ∧ s.ret.own = .event quiet.eventMessage :: []) ∧
    (let s := { quiet with ret := { quiet.ret with pass := [[1]], sending := some .pass } }
     s.ret.sending = some .pass ∧ s.ret.pass = [1] :: []) ∧
    ({ quiet with ret := { quiet.ret with sending := some (.uncounted [2]) } } : State).ret.sending =
      some (.uncounted [2]) := by decide

/-- An EV that is due; one whose kind is masked; one whose slot is taken. -/
theorem witness_event :
    (let s := { quiet with events := ⟨0x400, 0, 0x3FF⟩ }
     s.events.latched &&& ~~~s.events.masked &&& ~~~s.events.reported ≠ 0 ∧ ∀ m ∈ s.ret.own, m.isEvent = false) ∧
    (let s := { quiet with events := ⟨0x400, 0, 0x400⟩ }
     s.events.latched &&& ~~~s.events.masked &&& ~~~s.events.reported = 0) ∧
    ¬ ∀ m ∈ [OwnMessage.event quiet.eventMessage], m.isEvent = false := by decide

/-- An FS that ends an outage queues its EV in the lane receiver's claim: the kind SIGNAL_FOUND alone, and the commit that
the same FS applies still PENDING in the snapshot. -/
theorem test_claims_at_boundary :
    let s := { busy with rx := LaneReceiver.initial, events := ⟨0, 0, 0⟩, ret := quiet.ret }
    gives (exec (.fs 1 2 1) s) (fun t => decide (t.events = ⟨0x018, 0x008, 0⟩ ∧ t.commit.state = .guarding) &&
      t.ret.own.any fun m => match m with
        | .event e => decide (e.kinds = 0x008 ∧ e.commit = .pending ∧ e.receiver = .frame)
        | .reply _ => false) = true := by decide

/-- The evaluation's EV stands before the reply of the capture that the same FE ends. -/
theorem test_claims_at_end :
    let s := { judged with events := ⟨0, 0, 0⟩, sig := { judged.sig with capture := .running ⟨.input, ⟨0, 0, 1, 0⟩, 1, 0x40, 0⟩ 5 } }
    gives (exec (.fe 1) s) (fun t => decide (t.ret.own.map OwnMessage.isEvent = [true, false])) = true := by decide

/-! ### Witnesses: the ends of jobs -/

theorem witness_fill_end : busy.resetHeld = false ∧ Memory.wf busy.mem ∧ busy.jobs = ⟨.fill 0, 9, 0x20⟩ :: [] ∧
    (busy.banks.record 0).staged = some ⟨1, 0, false⟩ := by decide

theorem witness_copy_end :
    let s := { State.handled quiet 0 { activeOnly with staged := some ⟨1, 0, false⟩, stagedState := .copying } with
      jobs := [⟨.copy 0 0 2, 9, 0x20⟩] }
    s.resetHeld = false ∧ Memory.wf s.mem ∧ s.jobs = ⟨.copy 0 0 2, 9, 0x20⟩ :: [] ∧
      (s.banks.record 0).staged = some ⟨1, 0, false⟩ ∧ (0 : Bank) ≠ 1 := by decide

theorem witness_check_end :
    let s := { State.handled quiet 0 (stagedOnly .checking) with jobs := [⟨.check 0 5 256, 9, 0x22⟩] }
    s.resetHeld = false ∧ s.jobs = ⟨.check 0 5 256, 9, 0x22⟩ :: [] ∧ (s.banks.record 0).staged = some ⟨1, 0, false⟩ := by
  decide

theorem witness_scrub_end :
    let s := { quiet with jobs := [⟨.scrub 15, 9, 0x24⟩], banks := { quiet.banks with quarantine := [15] } }
    s.resetHeld = false ∧ Memory.wf s.mem ∧ s.jobs = ⟨.scrub 15, 9, 0x24⟩ :: [] := by decide

/-! ### Witnesses: commands -/

theorem ready (s : State) (code : Byte) (payload : List Byte) (h : s.resetHeld = false) :
    HeadReady (State.headed s code payload) (command code payload) := ⟨h, rfl, rfl, Nat.zero_lt_succ 7⟩

/-- A head command with its eighth slot to take: the bound of R140. -/
theorem witness_ready_last_slot :
    HeadReady { quiet with cmd := ⟨[command 0x02 []], 7, 0, false⟩ } (command 0x02 []) := ⟨rfl, rfl, rfl, by decide⟩

theorem witness_checks : HeadReady (State.headed quiet 0x99 []) (command 0x99 []) ∧ (∀ e ∈ fixedCommands, (0x99 : Byte) ≠ e.1) ∧
    HeadReady (State.headed quiet 0x20 [1]) (command 0x20 [1]) ∧ HeadReady (State.headed quiet 0x21 (zeros 7)) (command 0x21 (zeros 7)) ∧
    HeadReady (State.headed quiet 0x20 [11, 0]) (command 0x20 [11, 0]) ∧
    HeadReady (State.headed quiet 0x21 (zeros 8)) (command 0x21 (zeros 8)) ∧ (byteAt [11, 0] 0).toNat = 11 ∧
    (zeros 8).length = 8 + 4 * (byteAt (zeros 8) 6).toNat :=
  ⟨ready _ _ _ rfl, by decide, ready _ _ _ rfl, ready _ _ _ rfl, ready _ _ _ rfl, ready _ _ _ rfl, by decide, by decide⟩

/-- OPEN_TABLE: handle 10 as the last handle; a handle in use; no active side to copy; no room; no free bank. -/
theorem witness_open : HeadReady (State.headed quiet 0x20 [10, 1]) (command 0x20 [10, 1]) ∧ [(10 : Byte), 1] = [handleByte 9, 1] ∧
    HeadReady (State.headed { quiet with banks := { quiet.banks with free := [] } } 0x20 [1, 0]) (command 0x20 [1, 0]) ∧
    ((State.handled quiet 0 (stagedOnly .loaded)).banks.record 0).stagedState ≠ .none ∧
    (quiet.banks.record 9).active = none :=
  ⟨ready _ _ _ rfl, by decide, ready _ _ _ rfl, by decide, by decide⟩

/-- Four jobs stand in the queue: the most it holds. -/
def crowded : State :=
  { State.handled (State.handled quiet 0 (stagedOnly .opened)) 9 activeOnly with
    banks := { (State.handled (State.handled quiet 0 (stagedOnly .opened)) 9 activeOnly).banks with quarantine := [14, 15] },
    jobs := [⟨.fill 1, 9, 0x20⟩, ⟨.fill 2, 9, 0x20⟩, ⟨.fill 3, 9, 0x20⟩, ⟨.scrub 15, 9, 0x24⟩] }

/-- With four jobs, OPEN_TABLE in both modes, CLOSE_TABLE and SCRUB_BANK wait at the head, their slot reserved; a SCRUB_BANK
of a bank whose SCRUB is in the queue is BUSY. -/
theorem witness_no_room :
    let waits (c : Instr) (code : Byte) (payload : List Byte) : Bool := gives (exec c (State.headed crowded code payload)) fun t =>
      decide (t.cmd = ⟨[command code payload], 1, 0, true⟩ ∧ t.jobs = crowded.jobs ∧ t.ret.own = [])
    (∀ code payload, HeadReady (State.headed crowded code payload) (command code payload)) ∧ crowded.jobs.length = 4 ∧
      waits .openTable 0x20 [2, 0] = true ∧ waits .openTable 0x20 [10, 1] = true ∧
      waits .closeTable 0x22 [1, 0, 1, 0, 0, 0, 0, 0] = true ∧ waits .scrubBank 0x24 [14] = true ∧
      answers .scrubBank (State.headed crowded 0x24 [15]) .busy [0, 0, 0, 0] = true :=
  ⟨fun _ _ => ready _ _ _ rfl, by decide⟩

/-- WRITE_TABLE at the last word of the bank; one past it; with the sequence due, the last one, and another. -/
theorem witness_write :
    let p : List Byte := [1, 0, 0, 0, 0x03, 0xFF, 1, 0, 0, 0, 0, 1]
    let s := State.handled quiet 0 { stagedOnly .opened with nextSeq := 1, writeAccepted := true }
    HeadReady (State.headed s 0x21 p) (command 0x21 p) ∧ p.length = 8 + 4 * (byteAt p 6).toNat ∧ 8 ≤ p.length ∧
      byteAt p 0 = handleByte 0 ∧ Memory.wf s.mem ∧ (s.banks.record 0).stagedState = .opened ∧
      (s.banks.record 0).staged = some ⟨1, 0, false⟩ ∧ (halfAt p 4).toNat + (byteAt p 6).toNat = 1024 ∧
      halfAt p 2 + 1 = (s.banks.record 0).nextSeq ∧ (s.banks.record 0).writeAccepted = true ∧
      halfAt p 2 = ((State.handled quiet 0 (stagedOnly .opened)).banks.record 0).nextSeq ∧
      halfAt [1, 0, 0, 5] 2 ≠ (s.banks.record 0).nextSeq ∧ halfAt [1, 0, 0, 5] 2 + 1 ≠ (s.banks.record 0).nextSeq :=
  ⟨ready _ _ _ rfl, by decide⟩

theorem witness_close : HeadReady (State.headed quiet 0x22 [1, 0, 1, 0, 0, 0, 0, 0]) (command 0x22 [1, 0, 1, 0, 0, 0, 0, 0]) ∧
    (halfAt [1, 0, 1, 0, 0, 0, 0, 0] 2).toNat = 256 ∧ byteAt [1, 0, 1, 0, 0, 0, 0, 0] 0 = handleByte 0 ∧
    HeadReady (State.headed quiet 0x24 [15]) (command 0x24 [15]) ∧ [(15 : Byte)] = [bankByte 15] ∧
    HeadReady (State.headed quiet 0x24 [16]) (command 0x24 [16]) ∧ 16 ≤ (16 : Byte).toNat :=
  ⟨ready _ _ _ rfl, by decide, by decide, ready _ _ _ rfl, by decide, ready _ _ _ rfl, by decide⟩

theorem witness_discard : HeadReady (State.headed busy 0x23 [1]) (command 0x23 [1]) ∧ [(1 : Byte)] = [handleByte 0] ∧
    (busy.banks.record 0).staged = some ⟨1, 0, false⟩ ∧ (busy.banks.record 0).stagedState = .filling ∧
    busy.jobs = [] ++ ⟨.fill 0, 9, 0x20⟩ :: [] ∧ (busy.banks.record 1).stagedState = .committing ∧
    (busy.banks.record 2).stagedState = .none ∧
    ((State.handled quiet 0 (stagedOnly .loaded)).banks.record 0).stagedState = .loaded :=
  ⟨ready _ _ _ rfl, by decide⟩

theorem witness_release : HeadReady (State.headed busy 0x25 [1]) (command 0x25 [1]) ∧ (busy.banks.record 0).active ≠ none ∧
    busy.cfg.active.names 0 = true ∧ (busy.banks.record 1).stagedState = .committing ∧ (busy.banks.record 1).active ≠ none ∧
    ((State.handled quiet 3 activeOnly).banks.record 3).active = some ⟨0, 2, false⟩ ∧ quiet.cfg.names 3 = false :=
  ⟨ready _ _ _ rfl, by decide⟩

/-- READ_TABLE of 16 words up to the last; a side that is absent; the staged side of a handle in FILLING. -/
theorem witness_read :
    let p : List Byte := [1, 0, 0x03, 0xF0, 16]
    HeadReady (State.headed busy 0x26 p) (command 0x26 p) ∧ p.length = 5 ∧ byteAt p 0 = handleByte 0 ∧
      byteAt p 1 = SideName.byte .active ∧ (busy.banks.record 0).side .active = some ⟨0, 2, false⟩ ∧
      (halfAt p 2).toNat + (byteAt p 4).toNat = 1024 ∧ (busy.banks.record 0).side .retained = none ∧
      (busy.banks.record 0).stagedState = .filling ∧ 2 < (byteAt [1, 3] 1).toNat :=
  ⟨ready _ _ _ rfl, by decide⟩

theorem witness_waiting :
    let s := { quiet with cmd := ⟨[command 0x20 [1, 0]], 8, 0, true⟩ }
    s.resetHeld = false ∧ s.cmd.queue.head? = some (command 0x20 [1, 0]) ∧ s.cmd.waiting = true ∧ 1 ≤ s.cmd.slots ∧
      s.cmd.slots ≤ 8 ∧ s.jobs.length < 4 ∧ 8 ≤ s.cmd.slots := by decide

/-- WRITE_CONFIG: a record that is valid, one that is not, a name out of range, and a frozen staged configuration. -/
theorem witness_writeConfig : HeadReady (State.headed quiet 0x30 (zeros 22)) (command 0x30 (zeros 22)) ∧
    (zeros 22).length = 22 ∧ recordNameOf 0 3 = some (.chain 3) ∧ recordNameOf 0 4 = none ∧ recordNameOf 1 5 = some (.region 5) ∧
    recordNameOf 2 4 = none ∧ recordNameOf 3 0 = none ∧ quiet.cfg.frozen = false ∧
    (quiet.cfg.staged.withRecord (.chain 0) (5 :: zeros 19)).isSome = false ∧ 4 < (byteAt (5 :: zeros 19) 0).toNat ∧
    (quiet.cfg.staged.withRecord (.chain 0) (zeros 20)).isSome = true ∧
    ({ quiet with cfg := { quiet.cfg with frozen := true } } : State).cfg.frozen = true :=
  ⟨ready _ _ _ rfl, by decide⟩

theorem witness_readConfig : HeadReady (State.headed quiet 0x31 [2, 1, 5]) (command 0x31 [2, 1, 5]) ∧
    quiet.commit.state = .idle ∧ recordNameOf 1 5 = some (.region 5) ∧ 2 < (3 : Byte).toNat ∧ recordNameOf 1 6 = none ∧
    HeadReady (State.headed guarded 0x31 [2, 1, 5]) (command 0x31 [2, 1, 5]) ∧ guarded.commit.state = .guarding ∧
    guarded.cfg.saved = some Configuration.initial :=
  ⟨ready _ _ _ rfl, by decide, by decide, by decide, by decide, ready _ _ _ rfl, by decide, by decide⟩

/-- COMMIT: accepted at a target 32768 ahead of the last boundary; past at 32767; a handle not LOADED; a handle the
configuration about to be active names, outside the set and without an active bank; malformed sets. -/
theorem witness_commit :
    let p : List Byte := [1, 0x81, 0xF4, 0, 2, 0, 15]
    let s := State.handled inFrame 0 (stagedOnly .loaded)
    HeadReady (State.headed s 0x32 p) (command 0x32 p) ∧ p.length = 7 ∧ s.commit.state = .idle ∧
      pendingCommitOf p = some ⟨.at 0x81F4, 1, false, 15⟩ ∧ s.targetPast (.at 0x81F4) = false ∧ s.targetPast (.at 0x81F5) = true ∧
      (s.banks.record 0).stagedState = .loaded ∧ (s.banks.record 1).stagedState ≠ .loaded ∧
      s.firstNotLoaded 3 = some 1 ∧ busy.firstUnbound busy.cfg.active 0 = none ∧
      ({ busy with banks := quiet.banks } : State).firstUnbound busy.cfg.active 2 = some 0 ∧
      pendingCommitOf [0, 0, 0, 0, 1, 0, 0] = none ∧ pendingCommitOf [0, 0, 0, 8, 0, 0, 0] = none ∧
      pendingCommitOf [2, 0, 0, 0, 2, 0, 0] = none ∧ pendingCommitOf [0, 0, 0, 0, 2, 0, 16] = none ∧
      pendingCommitOf [0, 0, 0, 0, 0, 0, 0] = none ∧ busy.commit.state = .pending ∧ guarded.commit.state = .guarding :=
  ⟨ready _ _ _ rfl, by decide⟩

theorem witness_confirm : HeadReady (State.headed busy 0x33 []) (command 0x33 []) ∧ busy.commit.state = .pending ∧
    busy.commit.pendingCommit = some ⟨.next, 2, false, 3⟩ ∧ HeadReady (State.headed guarded 0x34 []) (command 0x34 []) ∧
    guarded.commit.state = .guarding ∧ HeadReady (State.headed quiet 0x35 []) (command 0x35 []) ∧ quiet.commit.state = .idle ∧
    ({ guarded with commit := { guarded.commit with state := .rollbackPending } } : State).commit.state = .rollbackPending :=
  ⟨ready _ _ _ rfl, by decide, by decide, ready _ _ _ rfl, by decide, ready _ _ _ rfl, by decide, by decide⟩

/-- GUARD_OUTCOME: each outcome in GUARDING, with a counter of 1 and of 2, and an outcome outside GUARDING. -/
theorem witness_guardOutcome :
    (let s := { guarded with commit := { guarded.commit with handed := [.counted, .failed] } }
     s.resetHeld = false ∧ s.commit.handed = .counted :: [.failed] ∧ s.commit.state = .guarding ∧ s.commit.guardCounter = 1) ∧
    2 ≤ (2 : BitVec 4).toNat ∧ ({ quiet with commit := { quiet.commit with handed := [.failed] } } : State).commit.handed =
      .failed :: [] ∧ quiet.commit.state ≠ .guarding := by decide

theorem witness_settings : HeadReady (State.headed quiet 0x10 [1]) (command 0x10 [1]) ∧
    HeadReady (State.headed quiet 0x04 [255]) (command 0x04 [255]) ∧ HeadReady (State.headed quiet 0x03 [62]) (command 0x03 [62]) ∧
    62 < (63 : Byte).toNat :=
  ⟨ready _ _ _ rfl, ready _ _ _ rfl, ready _ _ _ rfl, by decide⟩

theorem witness_events : HeadReady (State.headed quiet 0x05 [7, 0xFF]) (command 0x05 [7, 0xFF]) ∧
    HeadReady (State.headed quiet 0x06 [8, 0]) (command 0x06 [8, 0]) ∧ (halfAt [7, 0xFF] 0).extractLsb' 11 5 = 0 ∧
    (halfAt [8, 0] 0).extractLsb' 11 5 ≠ 0 :=
  ⟨ready _ _ _ rfl, ready _ _ _ rfl, by decide, by decide⟩

/-- CAPTURE_SIGNATURE: the largest rectangle; coordinate 4096; x0 above x1; a unit that is busy. -/
theorem witness_capture :
    let p : List Byte := [1, 0, 0, 0, 0, 0x0F, 0xFF, 0x0F, 0xFF]
    HeadReady (State.headed quiet 0x40 p) (command 0x40 p) ∧ p.length = 9 ∧ quiet.sig.capture = .idle ∧
      (rectAt p 1).isSome = true ∧ rectAt [1, 0, 0, 0, 0, 0x10, 0, 0x0F, 0xFF] 1 = none ∧
      rectAt [1, 0, 2, 0, 0, 0, 1, 0, 0] 1 = none ∧ watched.sig.capture ≠ .idle :=
  ⟨ready _ _ _ rfl, by decide⟩

theorem witness_reports : HeadReady (State.headed quiet 0x01 []) (command 0x01 []) ∧
    HeadReady (State.headed quiet 0x02 []) (command 0x02 []) ∧ HeadReady (State.headed quiet 0x41 [4]) (command 0x41 [4]) ∧
    4 ≤ (4 : Byte).toNat ∧ HeadReady (State.headed quiet 0x41 [3]) (command 0x41 [3]) ∧ [(3 : Byte)] = [natByte (3 : Fin 4).val] :=
  ⟨ready _ _ _ rfl, ready _ _ _ rfl, ready _ _ _ rfl, by decide, ready _ _ _ rfl, by decide⟩

end Sys2Proof.Tests
end

section
/-! The mode of the pixel path at a frame start (R9): which kinds each claim of an FS can raise, what a frame boundary and
an overrun start leave of the mode and the pending mode, and the statement assembled from them. -/

namespace Sys2Proof.Machine

/-! ### Kinds latched by a raise (R156) -/

/-- A raise latches its own kind and no other. -/
theorem EventRegister.raise_getLsbD (r : EventRegister) (k : EventKind) (i : Nat) :
    (r.raise k).latched.getLsbD i = (r.latched.getLsbD i || decide (i = k.bit)) := by
  have one_bit : k.set.getLsbD i = decide (i = k.bit) := by
    have hbit : k.bit < 11 := by cases k <;> decide
    simp only [EventKind.set, BitVec.getLsbD_shiftLeft, BitVec.getLsbD_one]
    by_cases hi : i = k.bit
    · simp [hi, hbit]
    · simp [hi]; omega
  simp only [EventRegister.raise, BitVec.getLsbD_or, one_bit]

theorem EventRegister.raise_getLsbD_ne {k : EventKind} {i : Nat} (r : EventRegister) (h : i ≠ k.bit) :
    (r.raise k).latched.getLsbD i = r.latched.getLsbD i := by
  simp [EventRegister.raise_getLsbD, h]

/-! ### The claims of a frame boundary, at the pixel path and the kinds -/

theorem State.applyPendingMode_pix (s : State) :
    s.applyPendingMode.pix = s.pix.pendingMode.elim s.pix fun m => ⟨m, none⟩ := by
  cases h : s.pix.pendingMode with
  | none => rw [State.applyPendingMode_none h]; rfl
  | some m => rw [State.applyPendingMode_some h]; simp

/-- The pending mode raises FALLBACK_ENTERED when it is FALLBACK, and no other kind. -/
theorem State.applyPendingMode_latched (s : State) (i : Nat) :
    s.applyPendingMode.events.latched.getLsbD i =
      (s.events.latched.getLsbD i ||
        (decide (s.pix.pendingMode = some .fallback) && decide (i = EventKind.fallbackEntered.bit))) := by
  cases h : s.pix.pendingMode with
  | none => simp [State.applyPendingMode_none h]
  | some m =>
    rw [State.applyPendingMode_some h, State.raiseIf_events]
    by_cases hm : m = .fallback
    · simp [hm, EventRegister.raise_getLsbD]
    · simp [hm]

/-- The commit unit raises COMMIT_APPLIED and ROLLED_BACK alone at a boundary (R81, R98). -/
theorem State.commitBoundary_latched {i : Nat} (s : State) (f : Half) (happlied : i ≠ EventKind.commitApplied.bit)
    (hrolled : i ≠ EventKind.rolledBack.bit) :
    (s.commitBoundary f).events.latched.getLsbD i = s.events.latched.getLsbD i := by
  unfold State.commitBoundary
  split
  · rfl
  · rfl
  · exact EventRegister.raise_getLsbD_ne _ hrolled
  · split
    · rfl
    · split
      · exact EventRegister.raise_getLsbD_ne _ happlied
      · rfl

theorem State.commitBoundary_pix (s : State) (f : Half) : (s.commitBoundary f).pix = s.pix := by
  rw [State.commitBoundary_eq]

/-! ### A frame boundary and an overrun start (R125, R126) -/

theorem State.frameBoundary_pix (s : State) (frame width height : Half) :
    (s.frameBoundary frame width height).pix = s.pix.pendingMode.elim s.pix fun m => ⟨m, none⟩ := by
  simp [State.frameBoundary, State.signatureFrameStart, State.commitBoundary_pix, State.applyPendingMode_pix]

theorem State.frameBoundary_fallbackEntered (s : State) (frame width height : Half) :
    (s.frameBoundary frame width height).events.latched.getLsbD 8 =
      (s.events.latched.getLsbD 8 || decide (s.pix.pendingMode = some .fallback)) := by
  simp only [State.frameBoundary, State.signatureFrameStart]
  rw [State.reportEvents_latched, State.commitBoundary_latched _ _ (by decide) (by decide), State.reportEvents_latched,
    State.applyPendingMode_latched, State.reportEvents_latched, State.reportEvents_pix]
  simp only [EventKind.bit, decide_true, Bool.and_true]

theorem State.overrunStart_pix (s : State) (frame width height : Half) :
    (s.overrunStart frame width height).pix = s.pix := by
  simp only [State.overrunStart, State.signatureFrameStart]
  rw [State.captureOverrun_eq, State.frameBroken_pix]

/-- An overrun start raises FRAME_BROKEN alone (R126, R131). -/
theorem State.overrunStart_latched {i : Nat} (s : State) (frame width height : Half) (h : i ≠ EventKind.frameBroken.bit) :
    (s.overrunStart frame width height).events.latched.getLsbD i = s.events.latched.getLsbD i := by
  simp only [State.overrunStart, State.signatureFrameStart]
  rw [State.captureOverrun_eq]
  exact EventRegister.raise_getLsbD_ne _ h

theorem State.signalPresent_latched {i : Nat} (s : State) (h : i ≠ EventKind.signalFound.bit) :
    s.signalPresent.events.latched.getLsbD i = s.events.latched.getLsbD i := by
  rw [State.signalPresent_events]
  split
  · exact EventRegister.raise_getLsbD_ne _ h
  · rfl

/-! ### A good FS -/

theorem exec_fs_good {s : State} {frame width height : Half} (hs : s.resetHeld = false)
    (hp : fieldsInRange (.fs frame width height) = true) :
    exec (.fs frame width height) s = .next (takeFs frame width height s).reportEvents := execPacket hs hp

/-- Showing the signal moves NO_SIGNAL to HUNT alone, so it neither enters nor leaves FRAME (R124). -/
theorem LaneReceiver.seen_state_frame_iff (r : LaneReceiver) : r.seen.state = .frame ↔ r.state = .frame := by
  cases h : r.state <;> simp [LaneReceiver.seen, h]

theorem takeFs_inFrame {s : State} (frame width height : Half) (h : s.rx.state = .frame) :
    takeFs frame width height s =
      (s.signalPresent.overrunStart frame width height).forward (encodePacket (.fs frame width height)) := by
  simp [takeFs, LaneReceiver.seen_state_frame_iff, h]

theorem takeFs_outsideFrame {s : State} (frame width height : Half) (h : s.rx.state ≠ .frame) :
    takeFs frame width height s =
      (s.signalPresent.frameBoundary frame width height).forward (encodePacket (.fs frame width height)) := by
  simp [takeFs, LaneReceiver.seen_state_frame_iff, h]

/-- An FS in FRAME leaves the mode, the pending mode and FALLBACK_ENTERED (R9, R126). -/
theorem takeFs_inFrame_mode {s : State} (frame width height : Half) (h : s.rx.state = .frame) :
    (takeFs frame width height s).pix = s.pix ∧
      (takeFs frame width height s).events.latched.getLsbD 8 = s.events.latched.getLsbD 8 := by
  rw [takeFs_inFrame _ _ _ h]
  constructor
  · simp [State.overrunStart_pix]
  · rw [State.forward_events, State.overrunStart_latched _ _ _ _ (by decide), State.signalPresent_latched _ (by decide)]

/-- An FS outside FRAME applies the pending mode, and FALLBACK_ENTERED is raised when that is FALLBACK (R9). -/
theorem takeFs_outsideFrame_mode {s : State} (frame width height : Half) (h : s.rx.state ≠ .frame) :
    (takeFs frame width height s).pix = (s.pix.pendingMode.elim s.pix fun m => ⟨m, none⟩) ∧
      (takeFs frame width height s).events.latched.getLsbD 8 =
        (s.events.latched.getLsbD 8 || decide (s.pix.pendingMode = some .fallback)) := by
  rw [takeFs_outsideFrame _ _ _ h]
  constructor
  · simp [State.frameBoundary_pix]
  · rw [State.forward_events, State.frameBoundary_fallbackEntered, State.signalPresent_latched _ (by decide),
      State.signalPresent_pix]

/-- Settles O20: an FS is an overrun start in FRAME and a boundary outside it, and a boundary alone touches the mode. -/
theorem pendingModeAppliedAtBoundary : Obligations.PendingModeAppliedAtBoundary := by
  intro s frame width height hs hp
  refine ⟨_, exec_fs_good hs hp, ?_, fun m hout hm => ?_⟩
  · rw [State.reportEvents_pix, State.reportEvents_latched]
    intro hstay
    by_cases hin : s.rx.state = .frame
    · exact takeFs_inFrame_mode frame width height hin
    · have hnone := hstay.resolve_left hin
      simpa [hnone] using takeFs_outsideFrame_mode frame width height hin
  · obtain ⟨hpix, hlatched⟩ := takeFs_outsideFrame_mode frame width height hout
    rw [hm] at hpix hlatched
    rw [State.reportEvents_pix, State.reportEvents_latched, hpix, hlatched]
    exact ⟨rfl, fun h => by simp [h], fun h => by simp [h]⟩

end Sys2Proof.Machine
end

section
/-! SET_MODE, SET_LINK_OPTIONS and CLAIM_ADDRESS at the head of the command queue (R10, R133, R171): what each body gives for
a payload of one byte, and the answered state that follows. -/

namespace Sys2Proof.Machine

theorem byteAt_singleton {c : CommandPacket} {b : Byte} (hp : c.payload = [b]) : byteAt c.payload 0 = b := by
  rw [hp]; rfl

/-- A command of one argument byte passes the check of its length (R141). -/
theorem withLength_singleton {body : CommandPacket → State → CommandResult} {c : CommandPacket} {s : State} {b : Byte}
    (hp : c.payload = [b]) : withLength 1 body c s = body c s := withLength_ok (by rw [hp]; rfl)

/-! ### SET_MODE (R10) -/

theorem setModeBody_singleton {c : CommandPacket} {b : Byte} (s : State) (hp : c.payload = [b]) :
    setModeBody c s =
      if b = 0 then .reply .ok [] { s with pix := { s.pix with pendingMode := some .bypass } }
      else if b = 1 then .reply .ok [] { s with pix := { s.pix with pendingMode := some .active } }
      else .reply .badArgument [] s := by
  rw [setModeBody, withLength_singleton hp, byteAt_singleton hp, modeOf]
  split_ifs <;> rfl

theorem exec_setMode {s : State} {c : CommandPacket} {b : Byte} (h : HeadReady s c) (hc : c.code = codeSetMode)
    (hp : c.payload = [b]) :
    exec .setMode s = .next (
      if b = 0 then { s with pix := { s.pix with pendingMode := some .bypass } }.answered c .ok []
      else if b = 1 then { s with pix := { s.pix with pendingMode := some .active } }.answered c .ok []
      else s.answered c .badArgument []) := by
  have hbody := setModeBody_singleton s.slotReserved hp
  have hcode := beq_iff_eq.2 hc
  split_ifs at hbody ⊢
  · exact execHead_reply h hcode hbody rfl
  · exact execHead_reply h hcode hbody rfl
  · exact execHead_unchanged h hcode hbody

/-! ### SET_LINK_OPTIONS (R133) -/

theorem setLinkOptionsBody_singleton {c : CommandPacket} {b : Byte} (s : State) (hp : c.payload = [b]) :
    setLinkOptionsBody c s =
      if b = 0 then .reply .badArgument [0] s else .reply .ok [b] { s with rx := { s.rx with setting := b } } := by
  rw [setLinkOptionsBody, withLength_singleton hp, byteAt_singleton hp]
  rfl

theorem exec_setLinkOptions {s : State} {c : CommandPacket} {b : Byte} (h : HeadReady s c)
    (hc : c.code = codeSetLinkOptions) (hp : c.payload = [b]) :
    exec .setLinkOptions s = .next (
      if b = 0 then s.answered c .badArgument [0]
      else { s with rx := { s.rx with setting := b } }.answered c .ok [b]) := by
  have hbody := setLinkOptionsBody_singleton s.slotReserved hp
  have hcode := beq_iff_eq.2 hc
  split_ifs at hbody ⊢
  · exact execHead_unchanged h hcode hbody
  · exact execHead_reply h hcode hbody rfl

/-! ### CLAIM_ADDRESS (R171) -/

/-- The two checks that answer BAD_ARGUMENT, a broadcast and an address outside 1-62, as one. -/
theorem claimAddressBody_singleton {c : CommandPacket} {b : Byte} (s : State) (hp : c.payload = [b]) :
    claimAddressBody c s =
      if destinationOf c = 63 ∨ b.toNat = 0 ∨ 62 < b.toNat then s.refuseClaim .badArgument
      else if destinationOf c ≠ s.address then s.refuseClaim .wrongState
      else .reply .ok [s.address.setWidth 8, b] { s with address := b.extractLsb' 0 6 } := by
  rw [claimAddressBody, withLength_singleton hp, byteAt_singleton hp]
  by_cases hbroadcast : destinationOf c = 63
  · rw [if_pos hbroadcast, if_pos (.inl hbroadcast)]
  · simp only [hbroadcast, if_false, false_or, Nat.lt_one_iff]

theorem exec_claimAddress {s : State} {c : CommandPacket} {b : Byte} (h : HeadReady s c) (hc : c.code = codeClaimAddress)
    (hp : c.payload = [b]) :
    exec .claimAddress s = .next (
      if destinationOf c = 63 ∨ b.toNat = 0 ∨ 62 < b.toNat then
        s.answered c .badArgument [s.address.setWidth 8, s.address.setWidth 8]
      else if destinationOf c ≠ s.address then
        s.answered c .wrongState [s.address.setWidth 8, s.address.setWidth 8]
      else { s with address := b.extractLsb' 0 6 }.answered c .ok [s.address.setWidth 8, b]) := by
  have hbody := claimAddressBody_singleton s.slotReserved hp
  have hcode := beq_iff_eq.2 hc
  rw [State.slotReserved_address] at hbody
  split_ifs at hbody ⊢
  · exact execHead_unchanged h hcode hbody
  · exact execHead_unchanged h hcode hbody
  · exact execHead_reply h hcode hbody rfl

/-- Settles O57, command by command. -/
theorem settingsCommands : Obligations.SettingsCommands := by
  intro s c b h hp
  exact ⟨fun hc => exec_setMode h hc hp, fun hc => exec_setLinkOptions h hc hp, fun hc => exec_claimAddress h hc hp⟩

end Sys2Proof.Machine
end

section
/-! FILL_JOB_END (R48): the end of a running FILL, and the words it leaves in the staged bank. -/

namespace Sys2Proof.Machine

/-- The running job is a FILL for a handle with a staged side: it ends (R48). -/
theorem endFill_running {s : State} {h : Handle} {tag code : Byte} {rest : List Job} {side : Side}
    (hj : s.jobs = ⟨.fill h, tag, code⟩ :: rest) (hs : (s.banks.record h).staged = some side) :
    endFill s = some (({ s with
        jobs := rest, mem := zeroWords s.mem side.bank 1024,
        banks := s.banks.modify h fun r => { r with stagedState := .opened } }).withReply tag code .ok
      [handleByte h, bankByte side.bank, 0, 0, 0, 0]) := by
  rw [endFill, hj]
  simp only [hs, Option.map_some, State.endJob, hj, List.tail_cons]
  rfl

/-- Settles O40: the memory left is the old one with the 1024 words of the staged bank zeroed. -/
theorem fillEndOpensHandle : Obligations.FillEndOpensHandle := by
  intro s h tag code rest side hs hm hj hstaged
  exact ⟨zeroWords s.mem side.bank 1024, fun i => at_zeroWords hm _ le_rfl i.isLt,
    fun b i hb => at_zeroWords_otherBank _ hb _ i, takeStep_some hs (endFill_running hj hstaged)⟩

end Sys2Proof.Machine
end

section
/-! CLOSE_TABLE and SCRUB_BANK at the head of the command queue (R47, R60, R63): what each body gives for a payload of the
right form, and the state that follows. -/

namespace Sys2Proof.Machine

/-! ### Room in the job queue (R47) -/

theorem State.jobRoom_iff (s : State) : s.jobRoom = true ↔ ¬ 4 ≤ s.jobs.length := by
  rw [State.jobRoom, decide_eq_true_iff]
  exact Nat.not_le.symm

/-- A command that needs job room starts its job or waits. -/
theorem ite_jobRoom (s : State) (started : CommandResult) :
    (if s.jobRoom then started else .wait s) = if 4 ≤ s.jobs.length then .wait s else started := by
  simp only [State.jobRoom_iff, ite_not]

/-! ### CLOSE_TABLE (R60) -/

/-- CLOSE_TABLE started: the handle is in CHECKING, and a CHECK of the carried key count and CRC-32 is queued (R60). -/
def State.closeFrom (s : State) (h : Handle) (c : CommandPacket) : State :=
  { s with
    banks := s.banks.modify h fun r => { r with stagedState := .checking },
    jobs := s.jobs ++ [⟨.check h (wordAt c.payload 4) (halfAt c.payload 2).toNat, c.tag, c.code⟩] }

/-- The checks of R60 for a handle of 1-10, and the wait for room, as one chain. -/
theorem closeBody_handle {c : CommandPacket} {h : Handle} (s : State) (hl : c.payload.length = 8)
    (hb : byteAt c.payload 0 = handleByte h) :
    closeBody c s =
      if (s.banks.record h).stagedState ≠ .opened then .reply .wrongState (zeros 8) s
      else if 256 < (halfAt c.payload 2).toNat then .reply .badArgument (zeros 8) s
      else if 4 ≤ s.jobs.length then .wait s
      else .deferred (s.closeFrom h c) := by
  rw [closeBody, withLength_ok hl, withHandle_ok hb]
  simp only [ite_jobRoom]
  rfl

theorem exec_closeTable {s : State} {c : CommandPacket} {h : Handle} (hr : HeadReady s c) (hc : c.code = codeCloseTable)
    (hl : c.payload.length = 8) (hb : byteAt c.payload 0 = handleByte h) :
    exec .closeTable s = .next (
      if (s.banks.record h).stagedState ≠ .opened then s.answered c .wrongState (zeros 8)
      else if 256 < (halfAt c.payload 2).toNat then s.answered c .badArgument (zeros 8)
      else if 4 ≤ s.jobs.length then { s with cmd := { s.cmd with slots := s.cmd.slots + 1, waiting := true } }.reportEvents
      else (s.closeFrom h c).headTaken.reportEvents) := by
  have hbody := closeBody_handle s.slotReserved hl hb
  have hcode := beq_iff_eq.2 hc
  rw [State.slotReserved_banks, State.slotReserved_jobs] at hbody
  split_ifs at hbody ⊢
  · exact execHead_unchanged hr hcode hbody
  · exact execHead_unchanged hr hcode hbody
  · exact execHead_wait hr hcode hbody
  · exact execHead_deferred (u := s.closeFrom h c) hr hcode hbody rfl

/-! ### SCRUB_BANK (R63) -/

theorem JobWork.scrubs_eq (w : JobWork) (b : Bank) : w.scrubs b = decide (w = .scrub b) := by
  cases w with
  | scrub b' => simp [JobWork.scrubs, beq_eq_decide]
  | fill h => rfl
  | copy h source keyCount => rfl
  | check h expected keyCount => rfl

theorem bankOf_none {b : Byte} (h : 16 ≤ b.toNat) : bankOf b = none := dif_neg (Nat.not_lt.2 h)

/-- The checks of R63 for a bank of 0-15, and the wait for room, as one chain. -/
theorem scrubBody_bank {c : CommandPacket} {bank : Bank} (s : State) (hp : c.payload = [bankByte bank]) :
    scrubBody c s =
      if bank ∉ s.banks.quarantine then .reply .wrongState (zeros 4) s
      else if s.jobs.any (fun j => decide (j.work = .scrub bank)) then .reply .busy (zeros 4) s
      else if 4 ≤ s.jobs.length then .wait s
      else .deferred (s.addJob ⟨.scrub bank, c.tag, c.code⟩) := by
  have hbyte : byteAt c.payload 0 = bankByte bank := by rw [hp]; rfl
  rw [scrubBody, withLength_ok (by rw [hp]; rfl), hbyte, bankOf_bankByte]
  simp only [ite_jobRoom, JobWork.scrubs_eq]

theorem exec_scrubBank {s : State} {c : CommandPacket} {bank : Bank} (hr : HeadReady s c) (hc : c.code = codeScrubBank)
    (hp : c.payload = [bankByte bank]) :
    exec .scrubBank s = .next (
      if bank ∉ s.banks.quarantine then s.answered c .wrongState (zeros 4)
      else if s.jobs.any (fun j => decide (j.work = .scrub bank)) then s.answered c .busy (zeros 4)
      else if 4 ≤ s.jobs.length then { s with cmd := { s.cmd with slots := s.cmd.slots + 1, waiting := true } }.reportEvents
      else (s.addJob ⟨.scrub bank, c.tag, c.code⟩).headTaken.reportEvents) := by
  have hbody := scrubBody_bank s.slotReserved hp
  have hcode := beq_iff_eq.2 hc
  rw [State.slotReserved_banks, State.slotReserved_jobs] at hbody
  split_ifs at hbody ⊢
  · exact execHead_unchanged hr hcode hbody
  · exact execHead_wait hr hcode hbody
  · exact execHead_deferred (u := s.addJob ⟨.scrub bank, c.tag, c.code⟩) hr hcode hbody rfl
  · exact execHead_unchanged hr hcode hbody

theorem exec_scrubBank_outOfRange {s : State} {c : CommandPacket} {b : Byte} (hr : HeadReady s c)
    (hc : c.code = codeScrubBank) (hp : c.payload = [b]) (hb : 16 ≤ b.toNat) :
    exec .scrubBank s = .next (s.answered c .badArgument (zeros 4)) := by
  refine execHead_unchanged hr (beq_iff_eq.2 hc) ?_
  rw [scrubBody, withLength_singleton hp, byteAt_singleton hp, bankOf_none hb]

/-- Settles O47, command by command. -/
theorem closeAndScrubQueueJobs : Obligations.CloseAndScrubQueueJobs := by
  intro s c hr
  exact ⟨fun h hc hl hb => exec_closeTable hr hc hl hb, fun bank hc hp => exec_scrubBank hr hc hp,
    fun b hc hp hb => exec_scrubBank_outOfRange hr hc hp hb⟩

end Sys2Proof.Machine
end

section
/-! OPEN_TABLE at the head of the command queue (R56, R57): its checks as one chain, and the front bank taken. -/

namespace Sys2Proof.Machine

/-- The mode argument: 0 FILL, 1 COPY, no other (R56). -/
theorem openModeOf_eq (b : Byte) : openModeOf b = if 1 < b.toNat then none else some (decide (b = 1)) := by
  by_cases h : 1 < b.toNat
  · rw [openModeOf, if_neg (by bv_omega), if_neg (by bv_omega), if_pos h]
  · obtain rfl | rfl : b = 0 ∨ b = 1 := by bv_omega
    · rfl
    · rfl

/-- The checks of R56 for a handle of 1-10, and the wait for room, as one chain. -/
theorem openBody_payload {c : CommandPacket} {h : Handle} {mode : Byte} (s : State)
    (hp : c.payload = [handleByte h, mode]) :
    openBody c s =
      if 1 < mode.toNat then .reply .badArgument (zeros 6) s
      else if (s.banks.record h).stagedState ≠ .none ∨ (mode = 1 ∧ (s.banks.record h).active = none) then
        .reply .wrongState (zeros 6) s
      else if 4 ≤ s.jobs.length then .wait s
      else openWithRoom h (decide (mode = 1)) c s := by
  have hmode : byteAt c.payload 1 = mode := by rw [hp]; rfl
  rw [openBody, withLength_ok (by rw [hp]; rfl), withHandle_ok (h := h) (by rw [hp]; rfl), hmode, openModeOf_eq]
  by_cases hbad : 1 < mode.toNat
  · rw [if_pos hbad, if_pos hbad]
  · rw [if_neg hbad, if_neg hbad]
    simp only [decide_eq_true_eq, ite_jobRoom]
    by_cases hused : (s.banks.record h).stagedState ≠ .none
    · rw [if_pos hused, if_pos (.inl hused)]
    · simp only [hused, if_false, false_or]

theorem openWithRoom_noBank {s : State} (h : Handle) (copy : Bool) (c : CommandPacket) (hfree : s.banks.free = []) :
    openWithRoom h copy c s = .reply .noBank (zeros 6) s := by
  rw [openWithRoom, hfree]

/-- The job that an OPEN_TABLE queues: a COPY of the active side, or a FILL (R57). -/
def openWork (h : Handle) (copy : Bool) (active : Option Side) : JobWork :=
  match copy, active with
  | true, some side => .copy h side.bank side.keyCount
  | _, _ => .fill h

/-- OPEN_TABLE started on the front bank: it is the staged side, and the job is queued (R57). -/
def State.openFrom (s : State) (h : Handle) (mode : Byte) (c : CommandPacket) (bank : Bank) (rest : List Bank) : State :=
  { s with
    banks := { (s.banks.modify h fun r => { r with
        staged := some ⟨bank, 0, false⟩, stagedState := if mode = 1 then .copying else .filling,
        nextSeq := 0, writeAccepted := false }) with free := rest },
    jobs := s.jobs ++ [⟨openWork h (decide (mode = 1)) (s.banks.record h).active, c.tag, c.code⟩] }

theorem openWithRoom_frontBank {s : State} {bank : Bank} {rest : List Bank} (h : Handle) (mode : Byte) (c : CommandPacket)
    (hfree : s.banks.free = bank :: rest) :
    openWithRoom h (decide (mode = 1)) c s = .deferred (s.openFrom h mode c bank rest) := by
  rw [openWithRoom, hfree]
  simp only [decide_eq_true_eq]
  rfl

/-- Settles O45: along the chain of checks, then with and without a free bank. -/
theorem openTableTakesFrontBank : Obligations.OpenTableTakesFrontBank := by
  intro s c h mode hr hc hp r
  have hbody := openBody_payload s.slotReserved hp
  have hcode := beq_iff_eq.2 hc
  rw [State.slotReserved_banks, State.slotReserved_jobs] at hbody
  by_cases hbad : 1 < mode.toNat
  · rw [if_pos hbad] at hbody ⊢
    exact execHead_unchanged hr hcode hbody
  rw [if_neg hbad] at hbody ⊢
  by_cases hused : r.stagedState ≠ .none ∨ (mode = 1 ∧ r.active = none)
  · rw [if_pos hused] at hbody ⊢
    exact execHead_unchanged hr hcode hbody
  rw [if_neg hused] at hbody ⊢
  by_cases hfull : 4 ≤ s.jobs.length
  · rw [if_pos hfull] at hbody ⊢
    exact execHead_wait hr hcode hbody
  rw [if_neg hfull] at hbody ⊢
  cases hfree : s.banks.free with
  | nil => exact execHead_unchanged hr hcode (hbody.trans (openWithRoom_noBank h _ c hfree))
  | cons bank rest =>
    have hstart : openBody c s.slotReserved = .deferred (s.slotReserved.openFrom h mode c bank rest) :=
      hbody.trans (openWithRoom_frontBank h mode c hfree)
    exact execHead_deferred (u := s.openFrom h mode c bank rest) hr hcode hstart rfl

end Sys2Proof.Machine
end

section
/-! WRITE_TABLE at the head of the command queue (R58, R59): the words its payload carries, and its checks as one chain. -/

namespace Sys2Proof.Machine

/-! ### Fields of a payload -/

theorem byteAt_drop (p : List Byte) (k i : Nat) : byteAt (p.drop k) i = byteAt p (k + i) := by
  simp [byteAt, List.getD_eq_getElem?_getD, List.getElem?_drop]

theorem wordAt_drop (p : List Byte) (k i : Nat) : wordAt (p.drop k) i = wordAt p (k + i) := by
  simp only [wordAt, halfAt, byteAt_drop, Nat.add_assoc]

theorem wordAt_cons4_zero (a b c d : Byte) (rest : List Byte) :
    wordAt (a :: b :: c :: d :: rest) 0 = (a ++ b ++ c ++ d : BitVec 32) := by
  show ((a ++ b) ++ (c ++ d) : BitVec 32) = (a ++ b ++ c ++ d : BitVec 32)
  have := BitVec.append_assoc (x₁ := a ++ b) (x₂ := c) (x₃ := d)
  simpa using this.symm

/-- The words of a payload whose length is a whole number of words are its four-byte fields. -/
theorem pixelWords_eq {n : Nat} {p : List Byte} (h : p.length = 4 * n) :
    pixelWords p = some ((List.range n).map fun i => wordAt p (4 * i)) := by
  induction n generalizing p with
  | zero => rw [List.length_eq_zero_iff.1 h]; rfl
  | succ n ih =>
    match p, h with
    | a :: b :: c :: d :: rest, h =>
      have hrest : rest.length = 4 * n := by simp only [List.length_cons] at h; omega
      have hword (i : Nat) : wordAt rest (4 * i) = wordAt (a :: b :: c :: d :: rest) (4 * (i + 1)) := by
        rw [Nat.mul_add, Nat.add_comm]
        exact wordAt_drop (a :: b :: c :: d :: rest) 4 (4 * i)
      rw [pixelWords, ih hrest, List.range_succ_eq_map, List.map_cons, List.map_map, Option.map_some, Nat.mul_zero,
        wordAt_cons4_zero]
      simp only [hword, Function.comp_def, Nat.succ_eq_add_one]

theorem carriedWords_eq {p : List Byte} {n : Nat} (h : p.length = 8 + 4 * n) :
    carriedWords p = (List.range n).map fun i => tripleOfWord (wordAt p (8 + 4 * i)) := by
  have hdrop : (p.drop 8).length = 4 * n := by rw [List.length_drop]; omega
  simp only [carriedWords, pixelWords_eq hdrop, wordAt_drop, List.map_map, Function.comp_def]

/-! ### WRITE_TABLE (R58, R59) -/

theorem writeTableBody_handle {c : CommandPacket} {h : Handle} (s : State) (hl8 : 8 ≤ c.payload.length)
    (hl : c.payload.length = 8 + 4 * (byteAt c.payload 6).toNat) (hb : byteAt c.payload 0 = handleByte h) :
    writeTableBody c s = writeTableChecked h c s := by
  rw [writeTableBody, if_pos ⟨hl8, hl⟩, withHandle_ok hb]

theorem writeTableChecked_notOpen {s : State} {h : Handle} (c : CommandPacket)
    (hstate : (s.banks.record h).stagedState ≠ .opened) :
    writeTableChecked h c s = .reply .wrongState (zeros 4) s := by
  simp only [writeTableChecked]
  split
  · contradiction
  · rfl

/-- The checks of R58 and R59 in OPEN, as one chain; a repetition carries the sequence just before the due one. -/
theorem writeTableChecked_opened {s : State} {h : Handle} {side : Side} (c : CommandPacket)
    (hstate : (s.banks.record h).stagedState = .opened) (hside : (s.banks.record h).staged = some side) :
    writeTableChecked h c s =
      if (byteAt c.payload 6).toNat = 0 ∨ 32 < (byteAt c.payload 6).toNat ∨
          1024 < (halfAt c.payload 4).toNat + (byteAt c.payload 6).toNat then .reply .badArgument (zeros 4) s
      else if halfAt c.payload 2 = (s.banks.record h).nextSeq then acceptWrite h side.bank c s
      else if halfAt c.payload 2 + 1 = (s.banks.record h).nextSeq ∧ (s.banks.record h).writeAccepted = true then
        .reply .duplicate ([0, 0] ++ bytes16 (s.banks.record h).nextSeq) s
      else .reply .sequence ([0, 0] ++ bytes16 (s.banks.record h).nextSeq) s := by
  simp only [writeTableChecked, hstate, hside, Nat.lt_one_iff, BitVec.eq_sub_iff_add_eq]

/-- Each word of the run that a WRITE_TABLE carries is in its place, with right parity. -/
theorem at_writeRun_carried {m : Memory} (hm : m.wf) (b : Bank) {p : List Byte} {start count i : Nat}
    (hl : p.length = 8 + 4 * count) (hend : start + count ≤ 1024) (hi : i < count) :
    (writeRun m b start (carriedWords p)).at (wordAddr b (BitVec.ofNat 10 (start + i))) =
      ⟨tripleOfWord (wordAt p (8 + 4 * i)), parityOf (tripleOfWord (wordAt p (8 + 4 * i)))⟩ := by
  rw [carriedWords_eq hl]
  exact at_writeRun_inside hm b (by simpa using hend) (by simp [hi])

/-- Outside the run that a WRITE_TABLE carries every word is as it was. -/
theorem at_writeRun_uncarried (m : Memory) {b b' : Bank} {p : List Byte} {start count : Nat} {i : Comp}
    (hl : p.length = 8 + 4 * count) (hend : start + count ≤ 1024)
    (h : b' ≠ b ∨ i.toNat < start ∨ start + count ≤ i.toNat) :
    (writeRun m b start (carriedWords p)).at (wordAddr b' i) = m.at (wordAddr b' i) := by
  rw [carriedWords_eq hl]
  exact at_writeRun_outside m _ (by simpa using hend) (by simpa using h)

/-- Settles O46: along the chain of checks; the words of an accepted write by `at_writeRun_carried`. -/
theorem writeTableStoresNextRun : Obligations.WriteTableStoresNextRun := by
  intro s c h hr hc hl8 hl hb hm r start count sequence
  have hcode := beq_iff_eq.2 hc
  have hbody := writeTableBody_handle s.slotReserved hl8 hl hb
  refine ⟨fun hstate => execHead_unchanged hr hcode (hbody.trans (writeTableChecked_notOpen c hstate)),
    fun side hstate hside => ?_⟩
  have hopen := hbody.trans (writeTableChecked_opened c hstate hside)
  refine ⟨fun hbad => execHead_unchanged hr hcode (hopen.trans (if_pos hbad)), fun hfirst hlast hend => ?_⟩
  have hrun : ¬ (count = 0 ∨ 32 < count ∨ 1024 < start + count) := by omega
  have hgood := hopen.trans (if_neg hrun)
  refine ⟨fun hdue => ?_, fun hrepeated haccepted => ?_, fun hnotDue hnotLast => ?_⟩
  · exact ⟨writeRun s.mem side.bank start (carriedWords c.payload), fun i hi => at_writeRun_carried hm _ hl hend hi,
      fun b i hout => at_writeRun_uncarried _ hl hend hout, execHead_reply hr hcode (hgood.trans (if_pos hdue)) rfl⟩
  · have hnotDue : sequence ≠ r.nextSeq := by bv_omega
    exact execHead_unchanged hr hcode (hgood.trans ((if_neg hnotDue).trans (if_pos ⟨hrepeated, haccepted⟩)))
  · have hnotRepeated : ¬ (sequence + 1 = r.nextSeq ∧ r.writeAccepted = true) :=
      fun ⟨hrepeated, haccepted⟩ => hnotLast.elim (· hrepeated) (by simp [haccepted])
    exact execHead_unchanged hr hcode (hgood.trans ((if_neg hnotDue).trans (if_neg hnotRepeated)))

end Sys2Proof.Machine
end

section
/-! The pending commit at a frame boundary (R80, R81): what an FS gives the commit unit to work on, what its claim leaves
when the target is reached and when it is not, and the statement assembled from them. -/

namespace Sys2Proof.Machine

/-! ### What the other claims of an FS leave to the commit unit -/

/-- Two states look the same to the commit unit: its own record, the banks, the configurations, the checkers but for their
running signatures, and the two kinds it can raise at a boundary. -/
structure State.SameForCommit (s t : State) : Prop where
  commit   : t.commit = s.commit
  banks    : t.banks = s.banks
  cfg      : t.cfg = s.cfg
  checkers : ∀ k : Fin 4, t.sig.checkers[k.val] = { s.sig.checkers[k.val] with running := t.sig.checkers[k.val].running }
  applied  : t.events.latched.getLsbD 4 = s.events.latched.getLsbD 4
  rolled   : t.events.latched.getLsbD 6 = s.events.latched.getLsbD 6

theorem State.SameForCommit.trans {s t u : State} (a : s.SameForCommit t) (b : t.SameForCommit u) : s.SameForCommit u where
  commit := b.commit.trans a.commit
  banks := b.banks.trans a.banks
  cfg := b.cfg.trans a.cfg
  checkers k := by rw [b.checkers k, a.checkers k]
  applied := b.applied.trans a.applied
  rolled := b.rolled.trans a.rolled

theorem State.SameForCommit.receiver (s : State) (rx : LaneReceiver) : s.SameForCommit { s with rx := rx } :=
  ⟨rfl, rfl, rfl, fun _ => rfl, rfl, rfl⟩

theorem State.SameForCommit.forward (s : State) (bytes : List Byte) : s.SameForCommit (s.forward bytes) :=
  ⟨rfl, rfl, rfl, fun _ => rfl, rfl, rfl⟩

theorem State.SameForCommit.reportEvents (s : State) : s.SameForCommit s.reportEvents :=
  ⟨by simp, by simp, by simp, fun _ => by simp, by rw [State.reportEvents_latched],
    by rw [State.reportEvents_latched]⟩

/-- Showing the signal raises SIGNAL_FOUND alone (R124). -/
theorem State.SameForCommit.signalPresent (s : State) : s.SameForCommit s.signalPresent :=
  ⟨by simp, by simp, by simp, fun _ => by simp, s.signalPresent_latched (by decide), s.signalPresent_latched (by decide)⟩

/-- The pending mode raises FALLBACK_ENTERED alone (R9). -/
theorem State.applyPendingMode_latched_ne {i : Nat} (s : State) (h : i ≠ EventKind.fallbackEntered.bit) :
    s.applyPendingMode.events.latched.getLsbD i = s.events.latched.getLsbD i := by
  rw [State.applyPendingMode_latched]; simp [h]

theorem State.SameForCommit.applyPendingMode (s : State) : s.SameForCommit s.applyPendingMode where
  commit := by rw [State.applyPendingMode_eq]
  banks := by rw [State.applyPendingMode_eq]
  cfg := by rw [State.applyPendingMode_eq]
  checkers _ := by rw [State.applyPendingMode_eq]
  applied := s.applyPendingMode_latched_ne (by decide)
  rolled := s.applyPendingMode_latched_ne (by decide)

/-- A frame start sets running signatures afresh and nothing else of a checker (R106). -/
theorem State.SameForCommit.signatureFrameStart (s : State) : s.SameForCommit s.signatureFrameStart where
  commit := rfl
  banks := rfl
  cfg := rfl
  checkers k := by
    simp only [State.signatureFrameStart, SignatureUnit.startFrame, onChecked_get]
    split <;> rfl
  applied := rfl
  rolled := rfl

/-- An FS outside FRAME is, for the commit unit, its own claim at the boundary (R80, R125). -/
theorem takeFs_commitClaim {s : State} (frame width height : Half) (h : s.rx.state ≠ .frame) :
    ∃ u, s.SameForCommit u ∧ (u.commitBoundary frame).SameForCommit (takeFs frame width height s).reportEvents := by
  rw [takeFs_outsideFrame _ _ _ h]
  refine ⟨_, ?_, (State.SameForCommit.reportEvents _).trans <| (State.SameForCommit.signatureFrameStart _).trans <|
    (State.SameForCommit.forward _ _).trans (State.SameForCommit.reportEvents _)⟩
  exact (State.SameForCommit.signalPresent s).trans <| (State.SameForCommit.receiver _ _).trans <|
    (State.SameForCommit.reportEvents _).trans <| (State.SameForCommit.applyPendingMode _).trans
      (State.SameForCommit.reportEvents _)

/-! ### The commit unit's claim in PENDING (R80, R81) -/

theorem Target.satisfiedBy_iff (t : Target) (f : Half) :
    t.satisfiedBy f = true ↔ t = .next ∨ ∃ n, t = .at n ∧ (f - n).toNat < 32768 := by
  match t with
  | .next => simp [Target.satisfiedBy]
  | .at n => simp [Target.satisfiedBy]

/-- A target that the boundary does not reach leaves everything the commit unit works on (R80). -/
theorem takeFs_targetNotReached {s : State} {frame : Half} {p : PendingCommit} (width height : Half)
    (hout : s.rx.state ≠ .frame) (hp : s.commit.pendingCommit = some p) (hstate : s.commit.state = .pending)
    (hf : p.target.satisfiedBy frame = false) : s.SameForCommit (takeFs frame width height s).reportEvents := by
  obtain ⟨u, hbefore, hafter⟩ := takeFs_commitClaim frame width height hout
  have hstill : u.commitBoundary frame = u :=
    u.commitBoundary_still frame (.inr (.inr ⟨by rw [hbefore.commit, hstate], by simp [hbefore.commit, hp, hf]⟩))
  exact hbefore.trans (hstill ▸ hafter)

/-- A target that the boundary reaches: the commit is applied to what the commit unit finds (R81). -/
theorem takeFs_targetReached {s : State} {frame : Half} {p : PendingCommit} (width height : Half)
    (hout : s.rx.state ≠ .frame) (hp : s.commit.pendingCommit = some p) (hstate : s.commit.state = .pending)
    (hf : p.target.satisfiedBy frame = true) :
    ∃ u, s.SameForCommit u ∧ (u.applyCommit p).SameForCommit (takeFs frame width height s).reportEvents := by
  obtain ⟨u, hbefore, hafter⟩ := takeFs_commitClaim frame width height hout
  have happlies : u.commitBoundary frame = u.applyCommit p :=
    State.commitBoundary_applies (by rw [hbefore.commit, hstate]) (by rw [hbefore.commit, hp]) hf
  exact ⟨u, hbefore, happlies ▸ hafter⟩

/-! ### What an application leaves (R37, R81) -/

theorem State.applyCommit_banks (s : State) (p : PendingCommit) :
    (s.applyCommit p).banks = s.banks.applyCommit p.handles (p.guardFrames != 0) := rfl

theorem State.applyCommit_cfg (s : State) (p : PendingCommit) :
    (s.applyCommit p).cfg =
      { active := if p.includeConfig then s.cfg.staged else s.cfg.active,
        staged := s.cfg.staged,
        saved := if p.guardFrames = 0 then s.cfg.saved else some s.cfg.active,
        frozen := if p.includeConfig then false else s.cfg.frozen } := by
  by_cases hg : p.guardFrames = 0 <;> simp [State.applyCommit, hg]

theorem State.applyCommit_commit (s : State) (p : PendingCommit) :
    (s.applyCommit p).commit =
      { s.commit with
        state := if p.guardFrames = 0 then .idle else .guarding,
        pendingCommit := none,
        guardedSet := if p.guardFrames = 0 then s.commit.guardedSet else some p.handles,
        guardCounter := if p.guardFrames = 0 then s.commit.guardCounter else p.guardFrames,
        lastApplied := true } := by
  by_cases hg : p.guardFrames = 0 <;> simp [State.applyCommit, hg]

theorem State.applyCommit_checker (s : State) (p : PendingCommit) (k : Fin 4) :
    (s.applyCommit p).sig.checkers[k.val] = { s.sig.checkers[k.val] with count := 0 } :=
  s.sig.clearCounts_checker k

theorem State.applyCommit_latched (s : State) (p : PendingCommit) (i : Nat) :
    (s.applyCommit p).events.latched.getLsbD i = (s.events.latched.getLsbD i || decide (i = 4)) :=
  s.events.raise_getLsbD .commitApplied i

/-- Banks leave at an application without a guard alone: those of the active sides replaced (R37). -/
theorem BankMap.applyCommit_lists (b : BankMap) (set : HandleSet) (guardFrames : BitVec 4) :
    (b.applyCommit set (guardFrames != 0)).free =
        b.free ++ (if guardFrames = 0 then freedBanks (sidesOf b set.has (·.active)) else []) ∧
      (b.applyCommit set (guardFrames != 0)).quarantine =
        b.quarantine ++ (if guardFrames = 0 then quarantinedBanks (sidesOf b set.has (·.active)) else []) ∧
      (b.applyCommit set (guardFrames != 0)).withdrawn = b.withdrawn := by
  obtain ⟨_, hfree, hquarantine, hwithdrawn⟩ := b.applyCommit_spec set (guardFrames != 0)
  by_cases hg : guardFrames = 0
  · simpa [hg] using And.intro hfree (And.intro hquarantine hwithdrawn)
  · have hguard : (guardFrames != 0) = true := bne_iff_ne.2 hg
    rw [hguard] at hfree hquarantine hwithdrawn ⊢
    rw [if_neg hg, if_neg hg]
    simpa [sidesOf, freedBanks, quarantinedBanks] using And.intro hfree (And.intro hquarantine hwithdrawn)

theorem BankMap.applyCommit_record (b : BankMap) (set : HandleSet) (guardFrames : BitVec 4) (h : Handle) :
    (b.applyCommit set (guardFrames != 0)).record h =
      if set.has h then
        { b.record h with
          active := (b.record h).staged, staged := none, stagedState := .none,
          retained := if guardFrames ≠ 0 ∧ (b.record h).active ≠ none then (b.record h).active
            else (b.record h).retained }
      else b.record h := by
  simpa using (b.applyCommit_spec set (guardFrames != 0)).1 h

/-- Settles O22: by whether the boundary reaches the target, from the two lemmas on the commit unit's claim. -/
theorem commitAppliedAtBoundary : Obligations.CommitAppliedAtBoundary := by
  intro s frame width height p hs hout hp hstate hpending
  refine ⟨_, exec_fs_good hs hp, ?_⟩
  cases hf : p.target.satisfiedBy frame with
  | false =>
    have same := takeFs_targetNotReached width height hout hpending hstate hf
    refine ⟨fun _ _ => ⟨same.commit, same.banks, same.cfg, same.applied⟩, same.rolled, fun hreached => ?_⟩
    rw [(p.target.satisfiedBy_iff frame).2 hreached] at hf
    cases hf
  | true =>
    obtain ⟨u, before, after⟩ := takeFs_targetReached width height hout hpending hstate hf
    refine ⟨fun hnext hat => ?_, ?_, fun _ => ⟨fun h => ?_, ?_, ?_, ?_, ?_, fun k => ?_, ?_, ?_⟩⟩
    · obtain hreached | ⟨n, hn, hreached⟩ := (p.target.satisfiedBy_iff frame).1 hf
      · exact absurd hreached hnext
      · exact absurd hreached (Nat.not_lt.2 (hat n hn))
    · rw [after.rolled, State.applyCommit_latched, before.rolled]; simp
    · rw [after.banks, State.applyCommit_banks, BankMap.applyCommit_record, before.banks]
    · rw [after.banks, State.applyCommit_banks, (BankMap.applyCommit_lists _ _ _).1, before.banks]
    · rw [after.banks, State.applyCommit_banks, (BankMap.applyCommit_lists _ _ _).2.1, before.banks]
    · rw [after.banks, State.applyCommit_banks, (BankMap.applyCommit_lists _ _ _).2.2, before.banks]
    · rw [after.cfg, State.applyCommit_cfg, before.cfg]
    · rw [after.checkers, State.applyCommit_checker, before.checkers]
    · rw [after.commit, State.applyCommit_commit, before.commit]
    · rw [after.applied, State.applyCommit_latched]; simp

end Sys2Proof.Machine
end

section
/-! READ_CONFIG at the head of the command queue (R70, R73), and its record area: what a carried record gives is carried
again by 20 bytes in the same layout, from which the same record is read (R66, R67, Table 11.6-1). -/

namespace Sys2Proof.Machine

/-! ### Fields at the front of a run of bytes (R175) -/

theorem halfAt_drop (p : List Byte) (k i : Nat) : halfAt (p.drop k) i = halfAt p (k + i) := by
  simp only [halfAt, byteAt_drop, Nat.add_assoc]

/-- A two-byte field, written and read again. -/
theorem append_bytes_half (x : Half) : (x.extractLsb' 8 8 ++ x.extractLsb' 0 8 : BitVec 16) = x := by
  rw [BitVec.extractLsb'_append_extractLsb'_eq_extractLsb' (by rfl)]
  simp

theorem wordAt_bytes32 (x : Word) (rest : List Byte) : wordAt (bytes32 x ++ rest) 0 = x := by
  show ((x.extractLsb' 24 8 ++ x.extractLsb' 16 8) ++ (x.extractLsb' 8 8 ++ x.extractLsb' 0 8) : BitVec 32) = x
  rw [BitVec.extractLsb'_append_extractLsb'_eq_extractLsb' (by rfl),
    BitVec.extractLsb'_append_extractLsb'_eq_extractLsb' (by rfl),
    BitVec.extractLsb'_append_extractLsb'_eq_extractLsb' (by rfl)]
  simp

theorem flag_flagByte (b : Bool) : (flagByte b).getLsbD 0 = b := by cases b <;> rfl

/-! ### Rectangles -/

/-- The corners of a rectangle are in order (R68). -/
def Rect.Ordered (r : Rect) : Prop := r.x0.toNat ≤ r.x1.toNat ∧ r.y0.toNat ≤ r.y1.toNat

theorem rectAt_ordered {p : List Byte} {i : Nat} {r : Rect} (h : rectAt p i = some r) : r.Ordered := by
  simp only [rectAt] at h
  split at h
  · cases h
    simp only [Rect.Ordered, BitVec.toNat_ofNat]
    omega
  · cases h

/-- A rectangle in order, carried at the front of a run of bytes, is read again. -/
theorem rectAt_bytes {r : Rect} (h : r.Ordered) (rest : List Byte) : rectAt (r.bytes ++ rest) 0 = some r := by
  obtain ⟨hx, hy⟩ := h
  have hx1 := r.x1.isLt
  have hy1 := r.y1.isLt
  have h0 : halfAt (r.bytes ++ rest) 0 = r.x0.setWidth 16 := append_bytes_half _
  have h2 : halfAt (r.bytes ++ rest) (0 + 2) = r.y0.setWidth 16 := append_bytes_half _
  have h4 : halfAt (r.bytes ++ rest) (0 + 4) = r.x1.setWidth 16 := append_bytes_half _
  have h6 : halfAt (r.bytes ++ rest) (0 + 6) = r.y1.setWidth 16 := append_bytes_half _
  have toNat_field (x : BitVec 12) : (x.setWidth 16).toNat = x.toNat := BitVec.toNat_setWidth_of_le (by decide)
  simp only [rectAt, h0, h2, h4, h6, toNat_field]
  rw [if_pos ⟨by omega, by omega, hx, hy⟩]
  simp

theorem rectAt_drop (p : List Byte) (k i : Nat) : rectAt (p.drop k) i = rectAt p (k + i) := by
  simp only [rectAt, halfAt_drop, Nat.add_assoc]

/-! ### CHAIN records -/

theorem stageOptionOf_kept {kind : StageKind} {b o : Byte} (h : stageOptionOf kind b = some o) :
    stageOptionOf kind o = some o := by
  cases kind with
  | curve => cases h; simp [stageOptionOf, BitVec.and_assoc]
  | palette =>
    simp only [stageOptionOf] at h ⊢
    split at h
    · next hb => cases h; exact if_pos hb
    · cases h
  | key => rfl

/-- The option of a stage is one that a record of its kind can carry (R66, log 18). -/
def Stage.OptionKept (st : Stage) : Prop := stageOptionOf st.kind st.option = some st.option

theorem stageAt_optionKept {area : List Byte} {s : Nat} {st : Stage} (h : stageAt area s = some st) : st.OptionKept := by
  unfold stageAt at h
  split at h
  · obtain ⟨o, ho, rfl⟩ := Option.map_eq_some_iff.1 h
    exact stageOptionOf_kept ho
  · cases h

/-- A stage entry, carried behind the entries before it, is read again. -/
theorem stageAt_bytes {area rest : List Byte} {s : Nat} {st : Stage} (h : st.OptionKept)
    (harea : area.drop (1 + 4 * s) = st.bytes ++ rest) : stageAt area s = some st := by
  have field (i : Nat) : byteAt area (1 + 4 * s + i) = byteAt (st.bytes ++ rest) i := by rw [← harea, byteAt_drop]
  have hkind : byteAt area (1 + 4 * s) = byteAt (st.bytes ++ rest) 0 := field 0
  have hhandle : byteAt area (2 + 4 * s) = handleByte st.handle := by
    rw [show 2 + 4 * s = 1 + 4 * s + 1 by omega, field 1]; rfl
  have hoption : byteAt area (3 + 4 * s) = st.option := by
    rw [show 3 + 4 * s = 1 + 4 * s + 2 by omega, field 2]; rfl
  have hkindOf : stageKindOf (byteAt area (1 + 4 * s)) = some st.kind := by
    rw [hkind]
    obtain ⟨kind, handle, option⟩ := st
    cases kind <;> rfl
  have h' : stageOptionOf st.kind st.option = some st.option := h
  simp [stageAt, hkindOf, hhandle, hoption, handleOf_handleByte, h']

theorem stagesFrom_length {area : List Byte} {n s : Nat} {l : List Stage} (h : stagesFrom area s n = some l) :
    l.length = n := by
  obtain ⟨_, hnone⟩ | ⟨_, l', hl', hlength, _⟩ := stagesFrom_cases area n s
  · rw [hnone] at h; cases h
  · rw [hl'] at h; cases h; exact hlength

theorem stagesFrom_optionKept {area : List Byte} {n s : Nat} {l : List Stage} (h : stagesFrom area s n = some l) :
    ∀ st ∈ l, st.OptionKept := by
  obtain ⟨_, hnone⟩ | ⟨_, l', hl', _, hread⟩ := stagesFrom_cases area n s
  · rw [hnone] at h; cases h
  · rw [hl'] at h; cases h
    intro st hst
    obtain ⟨i, hi⟩ := List.mem_iff_getElem?.1 hst
    exact stageAt_optionKept (hread i st hi)

/-- A run of stage entries, carried behind the entries before it, is read again. -/
theorem stagesFrom_bytes {area rest : List Byte} {l : List Stage} {s : Nat} (h : ∀ st ∈ l, st.OptionKept)
    (harea : area.drop (1 + 4 * s) = l.flatMap Stage.bytes ++ rest) : stagesFrom area s l.length = some l := by
  induction l generalizing s with
  | nil => rfl
  | cons st l ih =>
    rw [List.flatMap_cons, List.append_assoc] at harea
    have hnext : area.drop (1 + 4 * (s + 1)) = l.flatMap Stage.bytes ++ rest := by
      rw [show 1 + 4 * (s + 1) = 1 + 4 * s + 4 by omega, ← List.drop_drop, harea]; rfl
    simp only [List.length_cons, stagesFrom]
    rw [stageAt_bytes (h st (by simp)) harea, ih (fun st' hst' => h st' (by simp [hst'])) hnext]

theorem stageBytes_length (l : List Stage) : (l.flatMap Stage.bytes).length = 4 * l.length := by
  simp [Stage.bytes, Nat.mul_comm]

theorem padTo_length {n : Nat} {l : List Byte} (h : l.length ≤ n) : (padTo n l).length = n := by
  simp [padTo, zeros]; omega

/-- A record area holds a record: 20 bytes, from which the reader of its kind gives the record again. -/
def Carries {α : Type} (reader : List Byte → Option α) (area : List Byte) (record : α) : Prop :=
  area.length = 20 ∧ reader area = some record

theorem chainArea_carries {area : List Byte} {l : List Stage} (h : chainOf area = some l) :
    Carries chainOf (chainArea l) l := by
  unfold chainOf at h
  split at h
  · next hcount =>
    have hlength : l.length ≤ 4 := by rw [stagesFrom_length h]; exact hcount
    have hbyte : (byteAt (chainArea l) 0).toNat = l.length := by
      show (BitVec.ofNat 8 l.length).toNat = l.length
      simp; omega
    refine ⟨padTo_length (by rw [List.length_cons, stageBytes_length]; omega), ?_⟩
    rw [chainOf, hbyte, if_pos hlength]
    exact stagesFrom_bytes (stagesFrom_optionKept h) rfl
  · cases h

/-! ### REGION and WINDOW records -/

theorem regionOf_ordered {area : List Byte} {r : Region} (h : regionOf area = some r) : r.rect.Ordered := by
  unfold regionOf at h
  split at h
  · next rect hrect =>
    split at h
    · cases h; exact rectAt_ordered hrect
    · cases h
  · cases h

theorem regionArea_carries {r : Region} (h : r.rect.Ordered) : Carries regionOf r.area r := by
  refine ⟨rfl, ?_⟩
  have hrect : rectAt r.area 2 = some r.rect := (rectAt_drop r.area 2 0).symm.trans (rectAt_bytes h _)
  have hchain : (byteAt r.area 1).toNat = r.chain.val := by
    show (BitVec.ofNat 8 r.chain.val).toNat = r.chain.val
    rw [BitVec.toNat_ofNat]; omega
  have henabled : flagAt r.area 0 = r.enabled := flag_flagByte r.enabled
  simp only [regionOf, hrect, hchain, henabled, r.chain.isLt, dite_true]

/-- The corners of a window's rectangle are in order, and its threshold is 1-15 (R68). -/
def WindowRecord.InRange (w : WindowRecord) : Prop := w.rect.Ordered ∧ 1 ≤ w.threshold.toNat

theorem windowRecordOf_inRange {area : List Byte} {w : WindowRecord} (h : windowRecordOf area = some w) : w.InRange := by
  unfold windowRecordOf at h
  split at h
  · next hrect =>
    split at h
    · cases h
      refine ⟨rectAt_ordered hrect, ?_⟩
      simp only [BitVec.extractLsb'_toNat, Nat.shiftRight_zero]
      omega
    · cases h
  · cases h

theorem windowArea_carries {w : WindowRecord} (h : w.InRange) : Carries windowRecordOf (padTo 20 w.bytes) w := by
  obtain ⟨hordered, hthreshold⟩ := h
  refine ⟨rfl, ?_⟩
  have hrect : rectAt (padTo 20 w.bytes) 4 = some w.rect :=
    (rectAt_drop (padTo 20 w.bytes) 4 0).symm.trans (rectAt_bytes hordered _)
  have hexpected : wordAt (padTo 20 w.bytes) 12 = w.expected :=
    (wordAt_drop (padTo 20 w.bytes) 12 0).symm.trans (wordAt_bytes32 _ _)
  have hmember : flagAt (padTo 20 w.bytes) 3 = w.guardMember := flag_flagByte w.guardMember
  have hmode : windowModeOf (byteAt (padTo 20 w.bytes) 0) = some w.mode := by
    obtain ⟨mode, rect, expected, threshold, action, guardMember⟩ := w
    cases mode <;> rfl
  have haction : windowActionOf (byteAt (padTo 20 w.bytes) 1) = some w.action := by
    obtain ⟨mode, rect, expected, threshold, action, guardMember⟩ := w
    cases action <;> rfl
  have hbyte : byteAt (padTo 20 w.bytes) 2 = w.threshold.setWidth 8 := rfl
  have hrange : 1 ≤ (w.threshold.setWidth 8).toNat ∧ (w.threshold.setWidth 8).toNat ≤ 15 := by
    rw [BitVec.toNat_setWidth_of_le (by decide)]; omega
  have hkept : (w.threshold.setWidth 8).extractLsb' 0 4 = w.threshold := by
    rw [BitVec.extractLsb'_setWidth_of_le (by decide)]; simp
  simp only [windowRecordOf, hmode, haction, hrect, hbyte, hrange, and_self, if_true, hexpected, hmember, hkept]

/-! ### A configuration's record, carried back -/

/-- The record area of an accepted record is in WRITE_CONFIG's layout: carried back, it changes nothing (R71, R73). -/
theorem area_of_withRecord {c d : Configuration} {name : RecordName} {area : List Byte}
    (h : c.withRecord name area = some d) :
    (d.area name).length = 20 ∧ d.withRecord name (d.area name) = some d := by
  cases name with
  | chain i =>
    obtain ⟨l, hl, rfl⟩ := Option.map_eq_some_iff.1 h
    obtain ⟨hlength, hread⟩ := chainArea_carries hl
    simp [Configuration.area, Configuration.withRecord, hlength, hread]
  | region i =>
    obtain ⟨r, hr, rfl⟩ := Option.map_eq_some_iff.1 h
    obtain ⟨hlength, hread⟩ := regionArea_carries (regionOf_ordered hr)
    simp [Configuration.area, Configuration.withRecord, hlength, hread]
  | window i =>
    obtain ⟨w, hw, rfl⟩ := Option.map_eq_some_iff.1 h
    obtain ⟨hlength, hread⟩ := windowArea_carries (windowRecordOf_inRange hw)
    simp [Configuration.area, Configuration.withRecord, hlength, hread]

/-! ### READ_CONFIG (R70, R73) -/

/-- The status and the payload of the reply to a READ_CONFIG that names a side, a kind and an index. -/
def State.readConfigAnswer (s : State) (side kind index : Byte) : Status × List Byte :=
  if 2 < side.toNat then (.badArgument, s.refusedReadConfig)
  else
    match recordNameOf kind index with
    | none => (.badArgument, s.refusedReadConfig)
    | some name =>
        if side = 2 ∧ (s.commit.state = .idle ∨ s.commit.state = .pending) then (.wrongState, s.refusedReadConfig)
        else
          match s.cfg.side side with
          | none => (.wrongState, s.refusedReadConfig)
          | some cfg => (.ok, [side, kind, index, flagByte s.cfg.frozen] ++ cfg.area name)

/-- READ_CONFIG is answered at once, and its body changes nothing. -/
theorem readConfigBody_payload {c : CommandPacket} {side kind index : Byte} (s : State)
    (hp : c.payload = [side, kind, index]) :
    readConfigBody c s =
      .reply (s.readConfigAnswer side kind index).1 (s.readConfigAnswer side kind index).2 s := by
  have hside : byteAt c.payload 0 = side := by rw [hp]; rfl
  have hkind : byteAt c.payload 1 = kind := by rw [hp]; rfl
  have hindex : byteAt c.payload 2 = index := by rw [hp]; rfl
  rw [readConfigBody, withLength_ok (by rw [hp]; rfl)]
  simp only [hside, hkind, hindex, State.readConfigAnswer]
  by_cases hlarge : 2 < side.toNat
  · simp only [if_pos hlarge]
  · simp only [if_neg hlarge]
    cases recordNameOf kind index with
    | none => rfl
    | some name =>
      by_cases hnoSaved : side = 2 ∧ (s.commit.state = .idle ∨ s.commit.state = .pending)
      · simp only [if_pos hnoSaved]
      · simp only [if_neg hnoSaved]
        cases s.cfg.side side with
        | none => rfl
        | some cfg => rfl

theorem exec_readConfig {s : State} {c : CommandPacket} {side kind index : Byte} (hr : HeadReady s c)
    (hc : c.code = codeReadConfig) (hp : c.payload = [side, kind, index]) :
    exec .readConfig s =
      .next (s.answered c (s.readConfigAnswer side kind index).1 (s.readConfigAnswer side kind index).2) :=
  execHead_unchanged hr (beq_iff_eq.2 hc) (readConfigBody_payload s.slotReserved hp)

theorem State.readConfigAnswer_bad {side kind index : Byte} (s : State)
    (h : 2 < side.toNat ∨ recordNameOf kind index = none) :
    s.readConfigAnswer side kind index = (.badArgument, s.refusedReadConfig) := by
  by_cases hside : 2 < side.toNat
  · rw [State.readConfigAnswer, if_pos hside]
  · rw [State.readConfigAnswer, if_neg hside, h.resolve_left hside]

theorem State.readConfigAnswer_noSaved {kind index : Byte} {name : RecordName} {s : State}
    (hname : recordNameOf kind index = some name) (h : s.commit.state = .idle ∨ s.commit.state = .pending) :
    s.readConfigAnswer 2 kind index = (.wrongState, s.refusedReadConfig) := by
  simp [State.readConfigAnswer, hname, h]

/-- A side that is present is read; the saved one is refused in IDLE and PENDING. -/
theorem State.readConfigAnswer_read {side kind index : Byte} {name : RecordName} {cfg : Configuration} {s : State}
    (hname : recordNameOf kind index = some name) (hside : side.toNat ≤ 2) (hcfg : s.cfg.side side = some cfg)
    (hsaved : side = 2 → ¬ (s.commit.state = .idle ∨ s.commit.state = .pending)) :
    s.readConfigAnswer side kind index = (.ok, [side, kind, index, flagByte s.cfg.frozen] ++ cfg.area name) := by
  rw [State.readConfigAnswer, if_neg (Nat.not_lt.2 hside), hname]
  simp only [hcfg]
  exact if_neg fun ⟨htwo, hstate⟩ => hsaved htwo hstate

/-- Settles O53: the round trip by `area_of_withRecord`, the replies by the answer to each side. -/
theorem readConfigReturnsRecord : Obligations.ReadConfigReturnsRecord := by
  refine ⟨fun c d name area h => area_of_withRecord h, ?_⟩
  intro s c side kind index hr hc hp refused
  have hexec := exec_readConfig hr hc hp
  refine ⟨fun hbad => ?_, ?_⟩
  · rw [hexec, State.readConfigAnswer_bad s hbad]; rfl
  intro name hname ok
  have hread (cfg : Configuration) (hle : side.toNat ≤ 2) (hcfg : s.cfg.side side = some cfg)
      (hsaved : side = 2 → ¬ (s.commit.state = .idle ∨ s.commit.state = .pending)) :
      exec .readConfig s = .next (ok cfg) := by
    rw [hexec, State.readConfigAnswer_read hname hle hcfg hsaved]
  refine ⟨fun hside => ?_, fun hside => ?_, fun hside hstate => ?_, fun saved hside hstate hsaved => ?_⟩ <;> subst hside
  · exact hread s.cfg.active (by decide) rfl fun h => absurd h (by decide)
  · exact hread s.cfg.staged (by decide) rfl fun h => absurd h (by decide)
  · rw [hexec, State.readConfigAnswer_noSaved hname hstate]; rfl
  · exact hread saved (by decide) hsaved fun _ => by rcases hstate with h | h <;> simp [h]

end Sys2Proof.Machine
end

section
/-! The waiting rollback at an FS (R38, R98, R126): an overrun start looks to the commit unit like no act at all, what the
commit unit's claim leaves in ROLLBACK_PENDING, and the statement assembled from them. -/

namespace Sys2Proof.Machine

/-! ### An overrun start (R126) -/

/-- A broken frame raises FRAME_BROKEN alone (R131). -/
theorem State.SameForCommit.frameBroken (s : State) : s.SameForCommit s.frameBroken where
  commit := rfl
  banks := rfl
  cfg := rfl
  checkers _ := rfl
  applied := s.events.raise_getLsbD_ne (k := .frameBroken) (by decide)
  rolled := s.events.raise_getLsbD_ne (k := .frameBroken) (by decide)

/-- An overrun ends a capture attempt, which changes the capture and its reply alone (R118). -/
theorem State.SameForCommit.captureOverrun (s : State) : s.SameForCommit s.captureOverrun := by
  rw [State.captureOverrun_eq]
  exact ⟨rfl, rfl, rfl, fun _ => rfl, rfl, rfl⟩

theorem State.SameForCommit.overrunStart (s : State) (frame width height : Half) :
    s.SameForCommit (s.overrunStart frame width height) :=
  (State.SameForCommit.frameBroken s).trans <| (State.SameForCommit.captureOverrun _).trans <|
    (State.SameForCommit.receiver _ _).trans (State.SameForCommit.signatureFrameStart _)

/-- An FS in FRAME leaves everything the commit unit works on, whatever its state (R126). -/
theorem takeFs_overrun_sameForCommit {s : State} (frame width height : Half) (h : s.rx.state = .frame) :
    s.SameForCommit (takeFs frame width height s).reportEvents := by
  rw [takeFs_inFrame _ _ _ h]
  exact (State.SameForCommit.signalPresent s).trans <| (State.SameForCommit.overrunStart _ _ _ _).trans <|
    (State.SameForCommit.forward _ _).trans (State.SameForCommit.reportEvents _)

/-! ### The commit unit's claim in ROLLBACK_PENDING (R98) -/

/-- An FS outside FRAME: the rollback is applied to what the commit unit finds (R98). -/
theorem takeFs_rollsBack {s : State} (frame width height : Half) (hout : s.rx.state ≠ .frame)
    (hstate : s.commit.state = .rollbackPending) :
    ∃ u, s.SameForCommit u ∧ u.applyRollback.SameForCommit (takeFs frame width height s).reportEvents := by
  obtain ⟨u, before, after⟩ := takeFs_commitClaim frame width height hout
  have hrolls : u.commitBoundary frame = u.applyRollback :=
    State.commitBoundary_rollsBack frame (by rw [before.commit, hstate])
  exact ⟨u, before, hrolls ▸ after⟩

theorem State.applyRollback_banks {s : State} {set : HandleSet} (h : s.commit.guardedSet = some set) :
    s.applyRollback.banks = s.banks.rollback set := by
  simp [State.applyRollback, State.raise, h]

theorem State.applyRollback_cfg {s : State} {saved : Configuration} (h : s.cfg.saved = some saved) :
    s.applyRollback.cfg = { active := saved, staged := saved, saved := none, frozen := false } := by
  simp [State.applyRollback, State.raise, h]

theorem State.applyRollback_commit (s : State) :
    s.applyRollback.commit = { s.commit with state := .idle, guardedSet := none, guardCounter := 0 } := rfl

theorem State.applyRollback_checker (s : State) (k : Fin 4) :
    s.applyRollback.sig.checkers[k.val] = { s.sig.checkers[k.val] with count := 0 } :=
  s.sig.clearCounts_checker k

/-- A rollback raises ROLLED_BACK and no other kind. -/
theorem State.applyRollback_latched (s : State) (i : Nat) :
    s.applyRollback.events.latched.getLsbD i = (s.events.latched.getLsbD i || decide (i = 6)) :=
  s.events.raise_getLsbD .rolledBack i

/-- Settles O23: an overrun start by `takeFs_overrun_sameForCommit`, a boundary by `takeFs_rollsBack` and what the rollback
leaves of each part. -/
theorem rollbackAppliedAtBoundary : Obligations.RollbackAppliedAtBoundary := by
  intro s frame width height set saved hs hp hstate hset hsaved
  refine ⟨_, exec_fs_good hs hp, fun hin => ?_, fun hout => ?_⟩
  · have same := takeFs_overrun_sameForCommit frame width height hin
    exact ⟨same.banks, same.cfg, same.commit⟩
  · obtain ⟨u, before, after⟩ := takeFs_rollsBack frame width height hout hstate
    have hbanks : (takeFs frame width height s).reportEvents.banks = s.banks.rollback set := by
      rw [after.banks, State.applyRollback_banks (by rw [before.commit, hset]), before.banks]
    obtain ⟨hrecord, hfree, hquarantine, hwithdrawn⟩ := s.banks.rollback_spec set
    rw [hbanks]
    refine ⟨⟨hrecord, hfree, hquarantine⟩, hwithdrawn, ?_, fun k => ?_, ?_, ?_, ?_⟩
    · rw [after.cfg, State.applyRollback_cfg (by rw [before.cfg, hsaved])]
    · rw [after.checkers, State.applyRollback_checker, before.checkers]
    · rw [after.commit, State.applyRollback_commit, before.commit]
    · rw [after.rolled, State.applyRollback_latched]; simp
    · rw [after.applied, State.applyRollback_latched, before.applied]; simp

end Sys2Proof.Machine
end

section
/-! A good CM (R139, R169, Table 10.2-1): its destination matched against the part address, the command offered to the command
queue, and the packet forwarded or consumed. -/

namespace Sys2Proof.Machine

/-! ### The match of the destination (R169, Table 10.2-1) -/

theorem State.offers_iff (s : State) (c : CommandPacket) :
    s.offers c = true ↔ destinationOf c = 63 ∨ destinationOf c = s.address := by
  rw [State.offers, Bool.or_eq_true, decide_eq_true_iff, decide_eq_true_iff]

theorem State.passesOn_iff (s : State) (c : CommandPacket) :
    s.passesOn c = true ↔ destinationOf c = 63 ∨ destinationOf c ≠ s.address := by
  rw [State.passesOn, Bool.or_eq_true, decide_eq_true_iff, decide_eq_true_iff]

/-! ### The command queue (R139) -/

theorem State.offerCommand_joins {s : State} (c : CommandPacket) (h : s.cmd.queue.length < 8) :
    s.offerCommand c = { s with cmd := { s.cmd with queue := s.cmd.queue ++ [c] } } := if_pos h

theorem State.offerCommand_drops {s : State} (c : CommandPacket) (h : ¬ s.cmd.queue.length < 8) :
    s.offerCommand c = { s with cmd := { s.cmd with dropped := saturate16 s.cmd.dropped } }.latch 0x400 :=
  (if_neg h).trans (State.raise_eq_latch _ _)

/-- The signal shown leaves the command unit as it is (R124), so the room is that of the queue before. -/
theorem State.seen_offerCommand (s : State) (c : CommandPacket) :
    s.seen.offerCommand c =
      if s.cmd.queue.length < 8 then { s.seen with cmd := { s.cmd with queue := s.cmd.queue ++ [c] } }
      else { s.seen with cmd := { s.cmd with dropped := saturate16 s.cmd.dropped } }.latch 0x400 := by
  split
  · next hroom => exact State.offerCommand_joins (s := s.seen) c hroom
  · next hfull => exact State.offerCommand_drops (s := s.seen) c hfull

/-! ### A good CM -/

theorem takeCm_eq (s : State) (c : CommandPacket) :
    takeCm c s =
      let offered := if destinationOf c = 63 ∨ destinationOf c = s.address then s.seen.offerCommand c else s.seen
      if destinationOf c = 63 ∨ destinationOf c ≠ s.address then offered.sentDown (encodePacket (.cm c)) else offered := by
  simp only [takeCm, State.signalPresent_eq_seen, State.offers_iff, State.passesOn_iff, State.sentDown_eq_forward]

theorem exec_cm_good {s : State} {dest tag code : Byte} {payload : List Byte} (hs : s.resetHeld = false)
    (hp : payload.length ≤ 136) :
    exec (.cm dest tag code payload) s = .next (takeCm ⟨dest, tag, code, payload⟩ s).reportEvents :=
  execPacket (p := .cm ⟨dest, tag, code, payload⟩) hs (decide_eq_true hp)

/-- Settles O35: the match of the destination by `takeCm_eq`, the queue's room by `State.seen_offerCommand`. -/
theorem commandPacketMatched : Obligations.CommandPacketMatched := by
  intro s dest tag code payload hs hp
  rw [exec_cm_good hs hp, takeCm_eq, State.seen_offerCommand]
  rfl

end Sys2Proof.Machine
end

section
/-! The common checks of a command taken at the head (R141): its code, its payload length and its handle argument, read off the
rows of Table 11.7-1. -/

namespace Sys2Proof.Machine

/-! ### Check 1: the code -/

/-- The 22 codes known are those of `fixedCommands` and that of WRITE_TABLE. -/
theorem mem_fixedCommands_of_mem_knownCodes :
    ∀ code ∈ knownCodes, code = codeWriteTable ∨ ∃ e ∈ fixedCommands, code = e.1 := by decide

theorem knownCodes_contains_eq_false {code : Byte} (hwrite : code ≠ codeWriteTable)
    (hfixed : ∀ e ∈ fixedCommands, code ≠ e.1) : knownCodes.contains code = false := by
  rw [List.contains_eq_mem, decide_eq_false_iff_not]
  intro hknown
  obtain h | ⟨e, he, h⟩ := mem_fixedCommands_of_mem_knownCodes code hknown
  · exact hwrite h
  · exact hfixed e he h

theorem exec_unknownCommand {s : State} {c : CommandPacket} (hr : HeadReady s c) (hc : knownCodes.contains c.code = false) :
    exec .unknownCommand s = .next (s.answered c .unknownCommand []) :=
  execHead_unchanged (body := unknownBody) hr (by rw [hc]; rfl) rfl

/-! ### Check 2: the payload length -/

theorem execHead_badLength {codes : Byte → Bool} {len : Nat} {body : CommandPacket → State → CommandResult} {s : State}
    {c : CommandPacket} (hr : HeadReady s c) (hc : codes c.code = true) (hl : c.payload.length ≠ len) :
    takeStep (takeHead codes (withLength len body)) s = .next (s.answered c .badLength []) :=
  execHead_unchanged hr hc (withLength_bad hl)

/-- Every row of `fixedCommands` takes a head command of its own code and checks its own length before all else. -/
theorem exec_fixedCommand {e : Byte × Instr × Nat} (he : e ∈ fixedCommands) :
    ∃ body, exec e.2.1 = takeStep (takeHead (· == e.1) (withLength e.2.2 body)) := by
  fin_cases he <;> exact ⟨_, rfl⟩

/-! ### Check 3: the handle argument -/

/-- The rows of `fixedCommands` whose first argument is a handle (R141). -/
def handleCommands : List (Byte × Instr × Nat) :=
  [(0x20, .openTable, 2), (0x22, .closeTable, 8), (0x23, .discardTable, 1), (0x25, .releaseTable, 1), (0x26, .readTable, 5)]

theorem mem_handleCommands {e : Byte × Instr × Nat} (he : e ∈ fixedCommands)
    (hrow : e.2.1 ∈ [Instr.openTable, .closeTable, .discardTable, .releaseTable, .readTable]) : e ∈ handleCommands := by
  revert e
  decide

/-- These rows check the handle right after the length. -/
theorem exec_handleCommand {e : Byte × Instr × Nat} (he : e ∈ handleCommands) :
    ∃ body, exec e.2.1 = takeStep (takeHead (· == e.1) (withLength e.2.2 (withHandle body))) := by
  fin_cases he <;> exact ⟨_, rfl⟩

theorem execHead_badHandle {codes : Byte → Bool} {len : Nat} {body : Handle → CommandPacket → State → CommandResult}
    {s : State} {c : CommandPacket} (hr : HeadReady s c) (hc : codes c.code = true) (hl : c.payload.length = len)
    (hb : (byteAt c.payload 0).toNat = 0 ∨ 10 < (byteAt c.payload 0).toNat) :
    takeStep (takeHead codes (withLength len (withHandle body))) s = .next (s.answered c .badHandle []) :=
  execHead_unchanged hr hc ((withLength_ok hl).trans (withHandle_bad hb))

/-! ### WRITE_TABLE, whose length follows its word count -/

theorem exec_writeTable_badLength {s : State} {c : CommandPacket} (hr : HeadReady s c) (hc : c.code = codeWriteTable)
    (hl : c.payload.length < 8 ∨ c.payload.length ≠ 8 + 4 * (byteAt c.payload 6).toNat) :
    exec .writeTable s = .next (s.answered c .badLength []) :=
  execHead_unchanged (body := writeTableBody) hr (beq_iff_eq.2 hc) (if_neg (by omega))

theorem exec_writeTable_badHandle {s : State} {c : CommandPacket} (hr : HeadReady s c) (hc : c.code = codeWriteTable)
    (hl8 : 8 ≤ c.payload.length) (hl : c.payload.length = 8 + 4 * (byteAt c.payload 6).toNat)
    (hb : (byteAt c.payload 0).toNat = 0 ∨ 10 < (byteAt c.payload 0).toNat) :
    exec .writeTable s = .next (s.answered c .badHandle []) :=
  execHead_unchanged (body := writeTableBody) hr (beq_iff_eq.2 hc) ((if_pos ⟨hl8, hl⟩).trans (withHandle_bad hb))

/-- Settles O44, check by check: the rows of Table 11.7-1 by `exec_fixedCommand` and `exec_handleCommand`, WRITE_TABLE apart. -/
theorem commonChecks : Obligations.CommonChecks := by
  intro s c hr
  refine ⟨fun hwrite hfixed => ?_, fun e he hc hl => ?_, fun hc hl => ?_, fun hb => ⟨fun e he hrow hc hl => ?_, ?_⟩⟩
  · exact exec_unknownCommand hr (knownCodes_contains_eq_false hwrite hfixed)
  · obtain ⟨body, hexec⟩ := exec_fixedCommand he
    rw [hexec]
    exact execHead_badLength hr (beq_iff_eq.2 hc) hl
  · exact exec_writeTable_badLength hr hc hl
  · obtain ⟨body, hexec⟩ := exec_handleCommand (mem_handleCommands he hrow)
    rw [hexec]
    exact execHead_badHandle hr (beq_iff_eq.2 hc) hl hb
  · exact fun hc hl8 hl => exec_writeTable_badHandle hr hc hl8 hl hb

end Sys2Proof.Machine
end

section
/-! CR, CREDIT_ANNOUNCEMENT and FILL (R134, R135, R163): the judgement of an up-grant total, a due announcement sent, and a FILL
forwarded. -/

namespace Sys2Proof.Machine

/-! ### A good CR (R163) -/

/-- A total at most 16 past the up-sent total becomes the up-grant total. -/
theorem takeCr_grants {total : Byte} {s : State} (h : (total - s.ret.upSent).toNat ≤ 16) :
    takeCr total s = { s.seen with ret := { s.ret with upGrant := total } } := by
  simp only [takeCr, h, if_true, State.signalPresent_eq_seen]
  rfl

/-- Any other total is a link error, counted and raised after the signal was shown. -/
theorem takeCr_refuses {total : Byte} {s : State} (h : ¬ (total - s.ret.upSent).toNat ≤ 16) :
    takeCr total s =
      { s.seen with rx := { s.rx.seen with linkErrors := saturate16 s.rx.linkErrors } }.latch 0x001 := by
  simp only [takeCr, h, if_false, State.signalPresent_eq_seen, State.linkError_eq_latch]
  rfl

theorem exec_cr_good {total : Byte} {s : State} (hs : s.resetHeld = false) :
    exec (.cr total) s = .next (takeCr total s).reportEvents := execPacket (p := .cr total) hs rfl

/-! ### CREDIT_ANNOUNCEMENT (R135) -/

theorem announceCredit_due {s : State} (h : s.creditDue = true) :
    announceCredit s = some ({ s with creditDue := false }.sentDown (encodePacket (.cr s.ret.downGrant))) := if_pos h

theorem exec_creditAnnouncement_due {s : State} (hs : s.resetHeld = false) (h : s.creditDue = true) :
    exec .creditAnnouncement s =
      .next ({ s with creditDue := false }.sentDown (encodePacket (.cr s.ret.downGrant))).reportEvents :=
  takeStep_some hs (announceCredit_due h)

/-! ### A good FILL (R134, R176) -/

theorem encodePacket_fill : encodePacket .fill = [0x00, 0xE1, 0xF0] := by decide

theorem takeFill_eq (s : State) : takeFill s = s.seen.sentDown [0x00, 0xE1, 0xF0] := by
  rw [takeFill, State.signalPresent_eq_seen, encodePacket_fill, State.sentDown_eq_forward]

theorem exec_fill_good {s : State} (hs : s.resetHeld = false) :
    exec .fill s = .next (takeFill s).reportEvents := execPacket (p := .fill) hs rfl

/-- Settles O36, row by row; a CR by whether its total is within 16 of the up-sent total. -/
theorem creditAndFillPackets : Obligations.CreditAndFillPackets := by
  intro s hs
  refine ⟨fun total => ?_, exec_creditAnnouncement_due hs, ?_⟩
  · rw [exec_cr_good hs]
    split_ifs with hgrant
    · rw [takeCr_grants hgrant]
    · rw [takeCr_refuses hgrant]
  · rw [exec_fill_good hs, takeFill_eq]

end Sys2Proof.Machine
end

section
/-! ACK_EVENTS and SET_EVENT_MASK at the head of the command queue (R158, R159): the check of the kinds named, the change of the
event register, and the reply that shows it. -/

namespace Sys2Proof.Machine

/-! ### The kinds named -/

theorem kindSetOf_unknown {w : Half} (h : w.extractLsb' 11 5 ≠ 0) : kindSetOf w = none := if_neg h

theorem kindSetOf_known {w : Half} (h : ¬ w.extractLsb' 11 5 ≠ 0) : kindSetOf w = some (w.extractLsb' 0 11) :=
  if_pos (not_not.1 h)

/-! ### A change of the event register by the kinds named -/

/-- What the two commands share: the kinds named are checked, the register is changed, and the reply shows it changed. -/
def registerBody (change : BitVec 11 → EventRegister → EventRegister) : CommandPacket → State → CommandResult :=
  withLength 2 fun c s =>
    match kindSetOf (halfAt c.payload 0) with
    | none => .reply .badArgument [0, 0, 0, 0] s
    | some kinds =>
        .reply .ok { s with events := change kinds s.events }.registerPayload { s with events := change kinds s.events }

theorem registerBody_unknown {change : BitVec 11 → EventRegister → EventRegister} {c : CommandPacket} (s : State)
    (hl : c.payload.length = 2) (hk : kindSetOf (halfAt c.payload 0) = none) :
    registerBody change c s = .reply .badArgument [0, 0, 0, 0] s := by
  rw [registerBody, withLength_ok hl, hk]

theorem registerBody_known {change : BitVec 11 → EventRegister → EventRegister} {c : CommandPacket} {kinds : BitVec 11}
    (s : State) (hl : c.payload.length = 2) (hk : kindSetOf (halfAt c.payload 0) = some kinds) :
    registerBody change c s =
      .reply .ok { s with events := change kinds s.events }.registerPayload { s with events := change kinds s.events } := by
  rw [registerBody, withLength_ok hl, hk]

theorem execHead_register_unknown {codes : Byte → Bool} {change : BitVec 11 → EventRegister → EventRegister} {s : State}
    {c : CommandPacket} (hr : HeadReady s c) (hc : codes c.code = true) (hl : c.payload.length = 2)
    (hk : kindSetOf (halfAt c.payload 0) = none) :
    takeStep (takeHead codes (registerBody change)) s = .next (s.answered c .badArgument [0, 0, 0, 0]) :=
  execHead_unchanged hr hc (registerBody_unknown _ hl hk)

theorem execHead_register_known {codes : Byte → Bool} {change : BitVec 11 → EventRegister → EventRegister} {s : State}
    {c : CommandPacket} {kinds : BitVec 11} (hr : HeadReady s c) (hc : codes c.code = true) (hl : c.payload.length = 2)
    (hk : kindSetOf (halfAt c.payload 0) = some kinds) :
    takeStep (takeHead codes (registerBody change)) s =
      .next ({ s with events := change kinds s.events }.answered c .ok
        { s with events := change kinds s.events }.registerPayload) :=
  execHead_reply hr hc (registerBody_known _ hl hk) rfl

/-! ### ACK_EVENTS and SET_EVENT_MASK -/

/-- Latched and reported become no for the kinds named (R158). -/
def EventRegister.acknowledge (kinds : BitVec 11) (r : EventRegister) : EventRegister :=
  { r with latched := r.latched &&& ~~~kinds, reported := r.reported &&& ~~~kinds }

/-- The mask is replaced; the kinds latched and reported stay (R159). -/
def EventRegister.setMask (mask : BitVec 11) (r : EventRegister) : EventRegister := { r with masked := mask }

theorem exec_ackEvents_eq :
    exec .ackEvents = takeStep (takeHead (· == codeAckEvents) (registerBody EventRegister.acknowledge)) := rfl

theorem exec_setEventMask_eq :
    exec .setEventMask = takeStep (takeHead (· == codeSetEventMask) (registerBody EventRegister.setMask)) := rfl

/-- Settles O58, command by command, by whether the set names a kind that does not exist. -/
theorem eventAcknowledgeAndMask : Obligations.EventAcknowledgeAndMask := by
  intro s c hr hl kinds unknown report
  rw [exec_ackEvents_eq, exec_setEventMask_eq]
  refine ⟨fun hc => ⟨fun hunknown => ?_, fun hknown => ?_⟩, fun hc => ⟨fun hunknown => ?_, fun hknown => ?_⟩⟩
  · exact execHead_register_unknown hr (beq_iff_eq.2 hc) hl (kindSetOf_unknown hunknown)
  · exact execHead_register_known hr (beq_iff_eq.2 hc) hl (kindSetOf_known hknown)
  · exact execHead_register_unknown hr (beq_iff_eq.2 hc) hl (kindSetOf_unknown hunknown)
  · exact execHead_register_known hr (beq_iff_eq.2 hc) hl (kindSetOf_known hknown)

end Sys2Proof.Machine
end

section
/-! What a step can do (R140 to R144, R121 to R123, R179): one relation for the bodies of the commands at the head, one for the
events of a step, and the inversion of `step`. The laws of the whole machine are read off these two relations. -/

namespace Sys2Proof.Machine

/-! ### The bodies of the commands at the head -/

/-- The state of a head command's end, whichever it is. -/
def CommandResult.state : CommandResult → State
  | .reply _ _ s => s
  | .deferred s => s
  | .wait s => s

/-- An accepted WRITE_TABLE (R58). -/
def State.writeFrom (s : State) (h : Handle) (bank : Bank) (c : CommandPacket) : State :=
  { s with
    mem := writeRun s.mem bank (halfAt c.payload 4).toNat (carriedWords c.payload),
    banks := s.banks.modify h fun r => { r with nextSeq := (s.banks.record h).nextSeq + 1, writeAccepted := true } }

/-- An accepted READ_TABLE (R41): the words read, and the side marked when one was faulty. -/
def State.readFrom (s : State) (h : Handle) (name : SideName) (count : Nat) (faulty : Bool) : State :=
  { s with
    reads := s.reads + count,
    banks := if faulty then s.banks.modify h fun r => r.markSide name else s.banks }.raiseIf faulty .bankFault

/-- Everything the body of a command at the head can do, with the checks it has passed. -/
inductive BodyEffect (c : CommandPacket) (s : State) : CommandResult → Prop where
  | answers (status : Status) (payload : List Byte) : BodyEffect c s (.reply status payload s)
  | waits : BodyEffect c s (.wait s)
  | setsMode (m : Mode) (payload : List Byte) :
      BodyEffect c s (.reply .ok payload { s with pix := { s.pix with pendingMode := some m } })
  | setsTimer (ms : Byte) (payload : List Byte) (positive : ms ≠ 0) :
      BodyEffect c s (.reply .ok payload { s with rx := { s.rx with setting := ms } })
  | armsCapture (r : CaptureRecord) (idle : s.sig.capture = .idle) :
      BodyEffect c s (.deferred { s with sig := { s.sig with capture := .armed r } })
  | acknowledges (kinds : BitVec 11) (payload : List Byte) :
      BodyEffect c s (.reply .ok payload { s with events := s.events.acknowledge kinds })
  | setsMask (mask : BitVec 11) (payload : List Byte) :
      BodyEffect c s (.reply .ok payload { s with events := s.events.setMask mask })
  | claimsAddress (new : Byte) (payload : List Byte) (inRange : 1 ≤ new.toNat ∧ new.toNat ≤ 62) :
      BodyEffect c s (.reply .ok payload { s with address := new.extractLsb' 0 6 })
  | writesConfig (staged : Configuration) (payload : List Byte) (thawed : s.cfg.frozen = false) :
      BodyEffect c s (.reply .ok payload { s with cfg := { s.cfg with staged := staged } })
  | acceptsCommit (p : PendingCommit) (payload : List Byte) (idle : s.commit.state = .idle)
      (ready : s.firstNotLoaded p.handles = none)
      (bound : s.firstUnbound (s.futureConfig p.includeConfig) p.handles = none) :
      BodyEffect c s (.reply .ok payload (s.acceptCommit p))
  | cancelsCommit (payload : List Byte) (pending : s.commit.state = .pending) :
      BodyEffect c s (.reply .ok payload s.cancelCommit)
  | confirmsCommit (payload : List Byte) (guarding : s.commit.state = .guarding) :
      BodyEffect c s (.reply .ok payload s.confirmCommit)
  | requestsRollback (payload : List Byte) (guarding : s.commit.state = .guarding) :
      BodyEffect c s (.reply .ok payload s.requestRollback)
  | opens (h : Handle) (mode : Byte) (bank : Bank) (rest : List Bank)
      (unstaged : (s.banks.record h).stagedState = .none) (front : s.banks.free = bank :: rest)
      (source : mode = 1 → (s.banks.record h).active ≠ none) (room : s.jobs.length < 4) :
      BodyEffect c s (.deferred (s.openFrom h mode c bank rest))
  | closes (h : Handle) (opened : (s.banks.record h).stagedState = .opened) (room : s.jobs.length < 4) :
      BodyEffect c s (.deferred (s.closeFrom h c))
  | scrubs (bank : Bank) (quarantined : bank ∈ s.banks.quarantine) (unscrubbed : ∀ j ∈ s.jobs, j.work ≠ .scrub bank)
      (room : s.jobs.length < 4) : BodyEffect c s (.deferred (s.addJob ⟨.scrub bank, c.tag, c.code⟩))
  | writes (h : Handle) (side : Side) (payload : List Byte) (opened : (s.banks.record h).stagedState = .opened)
      (staged : (s.banks.record h).staged = some side) : BodyEffect c s (.reply .ok payload (s.writeFrom h side.bank c))
  | discardsWithJob (h : Handle) (payload : List Byte)
      (busy : (s.banks.record h).stagedState ∈ [StagedState.filling, .copying, .checking]) :
      BodyEffect c s (.reply .ok payload ((s.abortJobOf h).giveUpStaged h))
  | discards (h : Handle) (payload : List Byte)
      (still : (s.banks.record h).stagedState = .opened ∨ (s.banks.record h).stagedState = .loaded) :
      BodyEffect c s (.reply .ok payload (s.giveUpStaged h))
  | releases (h : Handle) (payload : List Byte) (code : c.code = codeReleaseTable) (unnamed : s.cfg.names h = false)
      (uncommitted : (s.banks.record h).stagedState ≠ .committing) :
      BodyEffect c s (.reply .ok payload { s with banks := s.banks.releaseActive h })
  | reads (h : Handle) (name : SideName) (count : Nat) (faulty : Bool) (payload : List Byte) :
      BodyEffect c s (.reply .ok payload (s.readFrom h name count faulty))

section Bodies

variable {c : CommandPacket} {s : State}

theorem withLength_effect {len : Nat} {body : CommandPacket → State → CommandResult}
    (h : BodyEffect c s (body c s)) : BodyEffect c s (withLength len body c s) := by
  unfold withLength
  split
  · exact h
  · exact .answers _ _

theorem withHandle_effect {body : Handle → CommandPacket → State → CommandResult}
    (h : ∀ handle, BodyEffect c s (body handle c s)) : BodyEffect c s (withHandle body c s) := by
  unfold withHandle
  split
  · exact h _
  · exact .answers _ _

theorem setModeBody_effect : BodyEffect c s (setModeBody c s) := by
  refine withLength_effect ?_
  split
  · exact .answers _ _
  · exact .setsMode _ _

theorem setLinkOptionsBody_effect : BodyEffect c s (setLinkOptionsBody c s) := by
  refine withLength_effect ?_
  dsimp only
  split
  · exact .answers _ _
  · next positive => exact .setsTimer _ _ positive

theorem captureBody_effect : BodyEffect c s (captureBody c s) := by
  refine withLength_effect ?_
  split
  · exact .answers _ _
  · next idle =>
    split
    · exact .armsCapture _ (not_not.1 idle)
    · exact .answers _ _

theorem readWindowBody_effect : BodyEffect c s (readWindowBody c s) := by
  refine withLength_effect ?_
  split <;> exact .answers _ _

theorem identifyBody_effect : BodyEffect c s (identifyBody c s) := withLength_effect (.answers _ _)

theorem readStatusBody_effect : BodyEffect c s (readStatusBody c s) := withLength_effect (.answers _ _)

theorem ackEventsBody_effect : BodyEffect c s (ackEventsBody c s) := by
  refine withLength_effect ?_
  split
  · exact .answers _ _
  · exact .acknowledges _ _

theorem setEventMaskBody_effect : BodyEffect c s (setEventMaskBody c s) := by
  refine withLength_effect ?_
  split
  · exact .answers _ _
  · exact .setsMask _ _

theorem claimAddressBody_effect : BodyEffect c s (claimAddressBody c s) := by
  refine withLength_effect ?_
  dsimp only
  split
  · exact .answers _ _
  · split
    · exact .answers _ _
    · next inRange =>
      split
      · exact .answers _ _
      · exact .claimsAddress _ _ (by omega)

theorem unknownBody_effect : BodyEffect c s (unknownBody c s) := .answers _ _

theorem writeConfigBody_effect : BodyEffect c s (writeConfigBody c s) := by
  refine withLength_effect ?_
  dsimp only
  split
  · exact .answers _ _
  · next thawed =>
    split
    · exact .answers _ _
    · split
      · exact .answers _ _
      · exact .writesConfig _ _ (by simpa using thawed)

theorem readConfigBody_effect : BodyEffect c s (readConfigBody c s) := by
  refine withLength_effect ?_
  dsimp only
  split
  · exact .answers _ _
  · split
    · exact .answers _ _
    · split
      · exact .answers _ _
      · split <;> exact .answers _ _

theorem commitBody_effect : BodyEffect c s (commitBody c s) := by
  refine withLength_effect ?_
  split
  · exact .answers _ _
  · exact .answers _ _
  · exact .answers _ _
  · next idle =>
    split
    · exact .answers _ _
    · next p _ =>
      split
      · exact .answers _ _
      · next ready =>
        split
        · exact .answers _ _
        · next bound =>
          split
          · exact .answers _ _
          · exact .acceptsCommit p _ idle ready bound

theorem cancelBody_effect : BodyEffect c s (cancelBody c s) := by
  refine withLength_effect ?_
  split
  · next pending => exact .cancelsCommit _ pending
  · exact .answers _ _
  · exact .answers _ _
  · exact .answers _ _

theorem confirmBody_effect : BodyEffect c s (confirmBody c s) := by
  refine withLength_effect ?_
  split
  · next guarding => exact .confirmsCommit _ guarding
  · exact .answers _ _
  · exact .answers _ _
  · exact .answers _ _

theorem rollbackBody_effect : BodyEffect c s (rollbackBody c s) := by
  refine withLength_effect ?_
  split
  · next guarding => exact .requestsRollback _ guarding
  · exact .answers _ _
  · exact .answers _ _
  · exact .answers _ _

theorem openWithRoom_effect {h : Handle} {mode : Byte} (unstaged : (s.banks.record h).stagedState = .none)
    (source : mode = 1 → (s.banks.record h).active ≠ none) (room : s.jobs.length < 4) : BodyEffect c s (openWithRoom h (decide (mode = 1)) c s) := by
  cases front : s.banks.free with
  | nil => rw [openWithRoom_noBank h _ c front]; exact .answers _ _
  | cons bank rest => rw [openWithRoom_frontBank h mode c front]; exact .opens h mode bank rest unstaged front source room

theorem openBody_effect : BodyEffect c s (openBody c s) := by
  refine withLength_effect (withHandle_effect fun h => ?_)
  rw [openModeOf_eq]
  split
  · exact .answers _ _
  · next copy hmode =>
    obtain ⟨_, hcopy⟩ := Option.ite_none_left_eq_some.1 hmode
    obtain rfl := Option.some.inj hcopy
    simp only [ite_jobRoom]
    split
    · exact .answers _ _
    · next unstaged =>
      split
      · exact .answers _ _
      · next source =>
        split
        · exact .waits
        · next room =>
          exact openWithRoom_effect (not_not.1 unstaged) (fun e none => source ⟨by simp [e], none⟩) (by omega)

theorem closeBody_effect : BodyEffect c s (closeBody c s) := by
  refine withLength_effect (withHandle_effect fun h => ?_)
  simp only [ite_jobRoom]
  split
  · exact .answers _ _
  · next opened =>
    split
    · exact .answers _ _
    · split
      · exact .waits
      · next room => exact .closes h (not_not.1 opened) (by omega)

theorem scrubBody_effect : BodyEffect c s (scrubBody c s) := by
  refine withLength_effect ?_
  split
  · exact .answers _ _
  · next bank _ =>
    simp only [ite_jobRoom, JobWork.scrubs_eq]
    split
    · exact .answers _ _
    · next quarantined =>
      split
      · exact .answers _ _
      · next unscrubbed =>
        split
        · exact .waits
        · next room =>
          exact .scrubs bank (not_not.1 quarantined) (by simpa using unscrubbed) (by omega)

theorem writeTableChecked_effect {h : Handle} : BodyEffect c s (writeTableChecked h c s) := by
  by_cases opened : (s.banks.record h).stagedState = .opened
  · cases staged : (s.banks.record h).staged with
    | none => simp only [writeTableChecked, staged, opened]; exact .answers _ _
    | some side =>
      rw [writeTableChecked_opened c opened staged]
      split_ifs
      · exact .answers _ _
      · exact .writes h side _ opened staged
      · exact .answers _ _
      · exact .answers _ _
  · rw [writeTableChecked_notOpen c opened]
    exact .answers _ _

theorem writeTableBody_effect : BodyEffect c s (writeTableBody c s) := by
  unfold writeTableBody
  split
  · exact withHandle_effect fun _ => writeTableChecked_effect
  · exact .answers _ _

theorem discardBody_effect : BodyEffect c s (discardBody c s) := by
  refine withLength_effect (withHandle_effect fun h => ?_)
  split
  · exact .answers _ _
  · exact .answers _ _
  · next busy => exact .discardsWithJob h _ (by simp [busy])
  · next busy => exact .discardsWithJob h _ (by simp [busy])
  · next busy => exact .discardsWithJob h _ (by simp [busy])
  · next still => exact .discards h _ (.inl still)
  · next still => exact .discards h _ (.inr still)

theorem releaseBody_effect (code : c.code = codeReleaseTable) : BodyEffect c s (releaseBody c s) := by
  refine withLength_effect (withHandle_effect fun h => ?_)
  dsimp only
  split
  · exact .answers _ _
  · split
    · exact .answers _ _
    · next uncommitted =>
      split
      · exact .answers _ _
      · next unused =>
        exact .releases h _ code (by simp only [Bool.or_eq_true, not_or] at unused; simpa using unused.1) uncommitted

theorem readTableBody_effect : BodyEffect c s (readTableBody c s) := by
  refine withLength_effect (withHandle_effect fun h => ?_)
  dsimp only
  split
  · exact .answers _ _
  · split
    · exact .answers _ _
    · split
      · exact .answers _ _
      · split
        · exact .answers _ _
        · exact .reads h _ _ _ _

theorem waitingBody_effect : BodyEffect c s (waitingBody c s) := by
  unfold waitingBody
  split_ifs
  · exact openBody_effect
  · exact closeBody_effect
  · exact scrubBody_effect
  · exact .waits

end Bodies

end Sys2Proof.Machine

namespace Sys2Proof

/-- The forward packet that a row names by its fields (R121). -/
def Instr.packet : Instr → Option ForwardPacket
  | .fs frame width height => some (.fs frame width height)
  | .ln line pixels => some (.ln line pixels)
  | .fe linesSent => some (.fe linesSent)
  | .cm dest tag code payload => some (.cm ⟨dest, tag, code, payload⟩)
  | .cr total => some (.cr total)
  | .linkReset => some .lr
  | .fill => some .fill
  | _ => none

end Sys2Proof

namespace Sys2Proof.Machine

/-! ### The events of a step -/

/-- Everything that can take place in a step of the row `i`, before the test of R157; a term that is well formed stands for
its own packet alone. -/
inductive Occurs (i : Instr) (s : State) : State → Prop where
  | nothing : Occurs i s s
  | good (p : ForwardPacket) (inRange : fieldsInRange p = true) (own : i.wellFormed = true → i.packet = some p) :
      Occurs i s (takeGood p s)
  | malformed (bytes : List Byte) (own : i.wellFormed = true → i = .malformedForwardPacket bytes) :
      Occurs i s (takeMalformed bytes s)
  | bad (bytes : List Byte) (own : i.wellFormed = true → i = .badPacket bytes) : Occurs i s (takeBad bytes s)
  | losesSignal (row : i = .signalLossExpiry) (running : s.rx.timer.isSome = true) (signal : s.rx.state ≠ .noSignal) :
      Occurs i s s.loseSignal
  | takesReturn (bytes : List Byte) (row : i = .returnPacket bytes) : Occurs i s (takeReturn bytes s)
  | takesOutcome (o : GuardOutcome) (rest : List GuardOutcome) (row : i = .guardOutcome) (oldest : s.commit.handed = o :: rest) :
      Occurs i s ({ s with commit := { s.commit with handed := rest } }.actOnOutcome o)
  | endsFill (u : State) (row : i = .fillJobEnd) (ends : endFill s = some u) : Occurs i s u
  | endsCopy (u : State) (row : i = .copyJobEnd) (ends : endCopy s = some u) : Occurs i s u
  | endsCheck (u : State) (row : i = .checkJobEnd) (ends : endCheck s = some u) : Occurs i s u
  | endsScrub (u : State) (row : i = .scrubJobEnd) (ends : endScrub s = some u) : Occurs i s u
  | begins (u : State) (row : i = .messageBegun) (begins : beginNext s = some u) : Occurs i s u
  | sends (u : State) (row : i = .messageSent) (ends : endMessage s = some u) : Occurs i s u
  | announces (u : State) (row : i = .creditAnnouncement) (announces : announceCredit s = some u) : Occurs i s u
  | heads (c : CommandPacket) (r : CommandResult) (row : c.code = codeReleaseTable → i = .releaseTable)
      (head : ∃ rest, s.cmd.queue = c :: rest) (fresh : s.cmd.waiting = false) (slot : s.cmd.slots < 8)
      (effect : BodyEffect c s.slotReserved r) : Occurs i s (finishCommand c r)
  | resumes (c : CommandPacket) (r : CommandResult) (row : c.code ≠ codeReleaseTable)
      (head : ∃ rest, s.cmd.queue = c :: rest) (waiting : s.cmd.waiting = true)
      (effect : BodyEffect c s r) : Occurs i s (finishCommand c r)

/-- A packet row takes its packet when the fields are in range, and a malformed one when not (log 22). -/
theorem takePacket_occurs {i : Instr} {p : ForwardPacket} (s : State) (hp : i.packet = some p)
    (hwf : i.wellFormed = fieldsInRange p) : Occurs i s (takePacket p s) := by
  unfold takePacket
  split
  · next inRange => exact .good p inRange fun _ => hp
  · next outOfRange => exact .malformed _ fun h => absurd (hwf ▸ h) outOfRange

theorem classify_good_inRange {bytes : List Byte} {p : ForwardPacket} (h : classify bytes = .good p) :
    fieldsInRange p = true := by
  unfold classify at h
  split at h
  · unfold classifyContent at h
    split at h
    · cases h
    · split at h
      · split at h
        · next inRange => cases h; exact inRange
        · cases h
      · cases h
  · cases h

theorem takeBytes_occurs_bad (bytes : List Byte) (s : State) : Occurs (.badPacket bytes) s (takeBytes bytes s) := by
  unfold takeBytes
  split
  · next p h => exact .good p (classify_good_inRange h) fun hwf => by simp [Instr.wellFormed, h] at hwf
  · next h => exact .malformed bytes fun hwf => by simp [Instr.wellFormed, h] at hwf
  · exact .bad bytes fun _ => rfl

theorem takeBytes_occurs_malformed (bytes : List Byte) (s : State) :
    Occurs (.malformedForwardPacket bytes) s (takeBytes bytes s) := by
  unfold takeBytes
  split
  · next p h => exact .good p (classify_good_inRange h) fun hwf => by simp [Instr.wellFormed, h] at hwf
  · exact .malformed bytes fun _ => rfl
  · next h => exact .bad bytes fun hwf => by simp [Instr.wellFormed, h] at hwf

/-- A waiting head command goes on, or, of a code that never waits, goes on waiting (R143). -/
theorem resumeHead_occurs {i : Instr} {s u : State} (h : resumeHead s = some u) : Occurs i s u := by
  unfold resumeHead at h
  split at h
  · cases h
  · next c rest head =>
    obtain ⟨⟨waiting, _⟩, rfl⟩ := Option.ite_none_right_eq_some.1 h |>.imp_right Option.some.inj
    by_cases release : c.code = codeReleaseTable
    · have still : s = finishCommand c (waitingBody c s) := by
        have waits : waitingBody c s = .wait s := by rw [waitingBody, release]; rfl
        rw [waits, finishCommand, ← waiting]
      exact still.subst (motive := Occurs i s) .nothing
    · exact .resumes c _ release ⟨rest, head⟩ waiting waitingBody_effect

/-- A row that takes the head command of its own code. -/
theorem takeHead_occurs {i : Instr} {s u : State} {code : Byte} {body : CommandPacket → State → CommandResult}
    (row : code = codeReleaseTable → i = .releaseTable)
    (effect : ∀ c : CommandPacket, c.code = code → BodyEffect c s.slotReserved (body c s.slotReserved))
    (h : takeHead (· == code) body s = some u) : Occurs i s u := by
  obtain ⟨c, rest, head, hcode, fresh, slot, rfl⟩ := takeHead_cases h
  have hcode := beq_iff_eq.1 hcode
  exact .heads c _ (fun e => row (hcode ▸ e)) ⟨rest, head⟩ fresh slot (effect c hcode)

/-- Everything a row can do while the pin is not asserted: its cause is not present, or one event takes place and the test of
R157 follows. -/
theorem takeStep_occurs {i : Instr} {event : State → Option State} {s t : State} (h : takeStep event s = .next t)
    (occurs : ∀ u, event s = some u → Occurs i s u) :
    t = s ∨ (s.resetHeld = false ∧ ∃ u, Occurs i s u ∧ t = u.reportEvents) :=
  (takeStep_cases h).imp_right fun ⟨hs, u, hu, ht⟩ => ⟨hs, u, occurs u hu, ht⟩

/-- Everything a row can do, the two rows of the reset pin apart. -/
theorem exec_occurs {i : Instr} {s t : State} (hpower : i ≠ .powerOnReset) (hrelease : i ≠ .resetRelease)
    (h : exec i s = .next t) : t = s ∨ (s.resetHeld = false ∧ ∃ u, Occurs i s u ∧ t = u.reportEvents) := by
  have always (event : State → State) (h : takeStep (fun s => some (event s)) s = .next t) (o : Occurs i s (event s)) :
      t = s ∨ (s.resetHeld = false ∧ ∃ u, Occurs i s u ∧ t = u.reportEvents) :=
    takeStep_occurs h fun _ hu => Option.some.inj hu ▸ o
  cases i with
  | powerOnReset => exact absurd rfl hpower
  | resetRelease => exact absurd rfl hrelease
  | fs frame width height => exact always (takePacket _) h (takePacket_occurs s rfl rfl)
  | ln line pixels => exact always (takePacket _) h (takePacket_occurs s rfl rfl)
  | fe linesSent => exact always (takePacket _) h (takePacket_occurs s rfl rfl)
  | cm dest tag code payload => exact always (takePacket _) h (takePacket_occurs s rfl rfl)
  | cr total => exact always (takePacket _) h (takePacket_occurs s rfl rfl)
  | linkReset => exact always (takePacket _) h (takePacket_occurs s rfl rfl)
  | fill => exact always (takePacket _) h (takePacket_occurs s rfl rfl)
  | badPacket bytes => exact always (takeBytes bytes) h (takeBytes_occurs_bad bytes s)
  | malformedForwardPacket bytes => exact always (takeBytes bytes) h (takeBytes_occurs_malformed bytes s)
  | signalLossExpiry =>
    refine takeStep_occurs (event := fun s => if s.rx.timer.isSome ∧ s.rx.state ≠ .noSignal then some s.loseSignal else none)
      h fun u hu => ?_
    obtain ⟨⟨running, signal⟩, rfl⟩ := Option.ite_none_right_eq_some.1 hu |>.imp_right Option.some.inj
    exact .losesSignal rfl running signal
  | returnPacket bytes => exact always (takeReturn bytes) h (.takesReturn bytes rfl)
  | guardOutcome =>
    refine takeStep_occurs h fun u hu => ?_
    unfold takeOutcome at hu
    split at hu
    · cases hu
    · next o rest oldest => exact Option.some.inj hu ▸ .takesOutcome o rest rfl oldest
  | fillJobEnd => exact takeStep_occurs h fun u hu => .endsFill u rfl hu
  | copyJobEnd => exact takeStep_occurs h fun u hu => .endsCopy u rfl hu
  | checkJobEnd => exact takeStep_occurs h fun u hu => .endsCheck u rfl hu
  | scrubJobEnd => exact takeStep_occurs h fun u hu => .endsScrub u rfl hu
  | messageBegun => exact takeStep_occurs h fun u hu => .begins u rfl hu
  | messageSent => exact takeStep_occurs h fun u hu => .sends u rfl hu
  | evQueued =>
    refine takeStep_occurs (event := fun s => if s.eventDue then some s else none) h fun u hu => ?_
    obtain ⟨_, rfl⟩ := Option.ite_none_right_eq_some.1 hu |>.imp_right Option.some.inj
    exact .nothing
  | creditAnnouncement => exact takeStep_occurs h fun u hu => .announces u rfl hu
  | waitingCommandResumed => exact takeStep_occurs h fun u => resumeHead_occurs
  | unknownCommand =>
    refine takeStep_occurs h fun u hu => ?_
    obtain ⟨c, rest, head, hcode, fresh, slot, rfl⟩ := takeHead_cases hu
    refine .heads c _ (fun e => ?_) ⟨rest, head⟩ fresh slot unknownBody_effect
    rw [e] at hcode
    exact absurd hcode (by decide)
  | releaseTable => exact takeStep_occurs h fun u => takeHead_occurs (fun _ => rfl) fun c hc => releaseBody_effect hc
  | setMode => exact takeStep_occurs h fun u => takeHead_occurs (by decide) fun _ _ => setModeBody_effect
  | readTable => exact takeStep_occurs h fun u => takeHead_occurs (by decide) fun _ _ => readTableBody_effect
  | openTable => exact takeStep_occurs h fun u => takeHead_occurs (by decide) fun _ _ => openBody_effect
  | writeTable => exact takeStep_occurs h fun u => takeHead_occurs (by decide) fun _ _ => writeTableBody_effect
  | closeTable => exact takeStep_occurs h fun u => takeHead_occurs (by decide) fun _ _ => closeBody_effect
  | discardTable => exact takeStep_occurs h fun u => takeHead_occurs (by decide) fun _ _ => discardBody_effect
  | scrubBank => exact takeStep_occurs h fun u => takeHead_occurs (by decide) fun _ _ => scrubBody_effect
  | writeConfig => exact takeStep_occurs h fun u => takeHead_occurs (by decide) fun _ _ => writeConfigBody_effect
  | readConfig => exact takeStep_occurs h fun u => takeHead_occurs (by decide) fun _ _ => readConfigBody_effect
  | commit => exact takeStep_occurs h fun u => takeHead_occurs (by decide) fun _ _ => commitBody_effect
  | cancelCommit => exact takeStep_occurs h fun u => takeHead_occurs (by decide) fun _ _ => cancelBody_effect
  | confirmCommit => exact takeStep_occurs h fun u => takeHead_occurs (by decide) fun _ _ => confirmBody_effect
  | rollbackCommit => exact takeStep_occurs h fun u => takeHead_occurs (by decide) fun _ _ => rollbackBody_effect
  | captureSignature => exact takeStep_occurs h fun u => takeHead_occurs (by decide) fun _ _ => captureBody_effect
  | readWindow => exact takeStep_occurs h fun u => takeHead_occurs (by decide) fun _ _ => readWindowBody_effect
  | setLinkOptions => exact takeStep_occurs h fun u => takeHead_occurs (by decide) fun _ _ => setLinkOptionsBody_effect
  | identify => exact takeStep_occurs h fun u => takeHead_occurs (by decide) fun _ _ => identifyBody_effect
  | readStatus => exact takeStep_occurs h fun u => takeHead_occurs (by decide) fun _ _ => readStatusBody_effect
  | ackEvents => exact takeStep_occurs h fun u => takeHead_occurs (by decide) fun _ _ => ackEventsBody_effect
  | setEventMask => exact takeStep_occurs h fun u => takeHead_occurs (by decide) fun _ _ => setEventMaskBody_effect
  | claimAddress => exact takeStep_occurs h fun u => takeHead_occurs (by decide) fun _ _ => claimAddressBody_effect

/-- The inversion of a step (R179, log 4): the queue is empty, or a row of the reset pin, or a row whose cause is absent, or one
event and then the test of R157. -/
theorem step_cases {s t : State} (h : step s = .next t) :
    t = s ∨ ∃ (i : Instr) (rest : List Instr), s.pending = i :: rest ∧
      (t = { s with pending := rest } ∨ (i = .powerOnReset ∧ t = ({ s with pending := rest } : State).powerOn) ∨
        t = { s with pending := rest, resetHeld := false } ∨
        ∃ u, Occurs i { s with pending := rest } u ∧ t = u.reportEvents) := by
  unfold step at h
  split at h
  · exact .inl (Host.Outcome.next.inj h).symm
  · next i rest front =>
    refine .inr ⟨i, rest, front, ?_⟩
    by_cases hpower : i = .powerOnReset
    · subst hpower; exact .inr (.inl ⟨rfl, (Host.Outcome.next.inj h).symm⟩)
    by_cases hrelease : i = .resetRelease
    · subst hrelease; exact .inr (.inr (.inl (Host.Outcome.next.inj h).symm))
    obtain ht | ⟨_, occurs⟩ := exec_occurs hpower hrelease h
    · exact .inl ht
    · exact .inr (.inr (.inr occurs))

end Sys2Proof.Machine
end

section
/-! The step itself (log 4, R179): it runs the front of the queue, never stops, and takes nothing else of the queue; the reset pin
holds the part. The state after reset satisfies every law. -/

namespace Sys2Proof.Machine

/-- Settles O1: the two cases of `step`. -/
theorem stepRunsFrontCommand : Obligations.StepRunsFrontCommand :=
  ⟨fun _ _ _ front => step_cons front rfl, fun s empty => by rw [step, empty]⟩

/-! ### The commit unit's acts, as changes of the part -/

theorem State.confirmCommit_eq (s : State) :
    s.confirmCommit = { s with
      banks := s.banks.confirm, cfg := { s.cfg with saved := none },
      commit := { s.commit with state := .idle, guardedSet := none, guardCounter := 0 },
      events := s.events.raise .commitConfirmed } := by
  simp only [State.confirmCommit, State.raise]

theorem State.applyCommit_eq (s : State) (p : PendingCommit) :
    s.applyCommit p = { s with
      banks := (s.applyCommit p).banks, cfg := (s.applyCommit p).cfg, commit := (s.applyCommit p).commit,
      sig := s.sig.clearCounts, events := s.events.raise .commitApplied } := rfl

theorem State.applyRollback_eq (s : State) :
    s.applyRollback = { s with
      banks := s.applyRollback.banks, cfg := s.applyRollback.cfg, commit := s.applyRollback.commit,
      sig := s.sig.clearCounts, events := s.events.raise .rolledBack } := by
  simp only [State.applyRollback, State.raise]

/-! ### The queue (log 4) -/

theorem FrameKeeps.frameEnd (s : State) (linesSent : Half) : FrameKeeps s (s.frameEnd linesSent) := by
  unfold State.frameEnd
  refine .trans ?_ (.captureFrameEnd _ _)
  have blank : FrameKeeps s { s with rx := { s.rx with state := .blank } } := .of_eq rfl
  have counted : FrameKeeps s (if s.rx.cleanAt linesSent then { s with rx := { s.rx with state := .blank } }
      else ({ s with rx := { s.rx with state := .blank } } : State).frameBroken) := by
    split
    · exact blank
    · exact blank.trans (.frameBroken _)
  dsimp only
  split
  · exact counted.trans ((FrameKeeps.evaluate _).trans (.reportEvents _))
  · exact counted

theorem FrameKeeps.overrunStart (s : State) (frame width height : Half) :
    FrameKeeps s (s.overrunStart frame width height) := by
  unfold State.overrunStart
  refine .trans (.frameBroken s) (.trans (.captureOverrun _) (.trans ?_ (.signatureFrameStart _)))
  exact .of_eq rfl

theorem FrameKeeps.loseSignal (s : State) : FrameKeeps s s.loseSignal := by
  unfold State.loseSignal
  refine .trans (t := if s.rx.state = .frame then s.frameBroken.captureSignalLost else s) ?_ (.of_eq rfl)
  split
  · exact .trans (.frameBroken s) (.captureSignalLost _)
  · exact .refl s

theorem State.afterLookups_pending (s : State) (l : Lookup) : (s.afterLookups l).pending = s.pending := by
  unfold State.afterLookups
  cases l.firstFault <;> simp

theorem State.frameLine_pending (s : State) (line : Half) (pixels : List Word) :
    (s.frameLine line pixels).pending = s.pending := by
  unfold State.frameLine
  dsimp only
  split
  · simp [State.afterLookups_pending]
  · rfl

theorem State.offerCommand_pending (s : State) (c : CommandPacket) : (s.offerCommand c).pending = s.pending := by
  unfold State.offerCommand
  split <;> rfl

theorem State.linkReset_pending (s : State) : s.linkReset.pending = s.pending := by
  simp only [State.linkReset, State.linkResetCommit, State.linkResetReturn]
  rw [State.stopRunning_eq]
  dsimp only
  split <;> rfl

theorem State.abortJobOf_pending (s : State) (h : Handle) : (s.abortJobOf h).pending = s.pending := by
  unfold State.abortJobOf
  split
  · rfl
  · rw [State.reply_pending, State.dropJobOf_eq]

theorem takeGood_pending (p : ForwardPacket) (s : State) : (takeGood p s).pending = s.pending := by
  cases p with
  | fs frame width height =>
    simp only [takeGood, takeFs]
    split
    · rw [State.forward_pending, (FrameKeeps.overrunStart _ _ _ _).pending, State.signalPresent_pending]
    · rw [State.forward_pending, (FrameKeeps.frameBoundary _ _ _ _).pending, State.signalPresent_pending]
  | ln line pixels =>
    simp only [takeGood, takeLn]
    split <;> simp [State.frameLine_pending]
  | fe linesSent =>
    simp only [takeGood, takeFe]
    split <;> simp [(FrameKeeps.frameEnd _ _).pending]
  | cm c =>
    simp only [takeGood, takeCm]
    split <;> split <;> simp [State.offerCommand_pending]
  | cr total =>
    simp only [takeGood, takeCr]
    split <;> simp
  | lr => simp [takeGood, takeLr, State.linkReset_pending]
  | fill => simp [takeGood, takeFill]

theorem State.breakFrameIf_pending (s : State) (readsLn : Bool) : (s.breakFrameIf readsLn).pending = s.pending := by
  unfold State.breakFrameIf
  split <;> rfl

theorem State.confirmCommit_pending (s : State) : s.confirmCommit.pending = s.pending := by
  rw [State.confirmCommit_eq]

theorem State.actOnOutcome_pending (s : State) (o : GuardOutcome) : (s.actOnOutcome o).pending = s.pending := by
  unfold State.actOnOutcome
  split
  · split
    · exact s.confirmCommit_pending
    · rfl
  · rfl
  · rfl
  · rfl

theorem State.linkErrorUnless_pending (s : State) (sound : Bool) : (s.linkErrorUnless sound).pending = s.pending := by
  cases sound <;> rfl

theorem takeReturn_pending (bytes : List Byte) (s : State) : (takeReturn bytes s).pending = s.pending := by
  unfold takeReturn
  split_ifs <;> simp [State.linkErrorUnless_pending]

theorem finishCommand_pending (c : CommandPacket) (r : CommandResult) : (finishCommand c r).pending = r.state.pending := by
  cases r <;> rfl

theorem BodyEffect.pending {c : CommandPacket} {s : State} {r : CommandResult} (h : BodyEffect c s r) :
    r.state.pending = s.pending := by
  cases h with
  | discardsWithJob h => exact State.abortJobOf_pending s h
  | confirmsCommit => exact s.confirmCommit_pending
  | reads => exact State.raiseIf_pending _ _ _
  | writes => rfl
  | opens => rfl
  | closes => rfl
  | discards => rfl
  | acceptsCommit => rfl
  | cancelsCommit => rfl
  | _ => rfl

theorem endFill_pending {s u : State} (h : endFill s = some u) : u.pending = s.pending := by
  unfold endFill at h
  split at h
  · obtain ⟨side, _, rfl⟩ := Option.map_eq_some_iff.1 h; simp
  · cases h

theorem endCopy_pending {s u : State} (h : endCopy s = some u) : u.pending = s.pending := by
  unfold endCopy at h
  split at h
  · obtain ⟨side, _, rfl⟩ := Option.map_eq_some_iff.1 h
    split <;> rfl
  · cases h

theorem endCheck_pending {s u : State} (h : endCheck s = some u) : u.pending = s.pending := by
  unfold endCheck at h
  split at h
  · obtain ⟨side, _, rfl⟩ := Option.map_eq_some_iff.1 h
    split
    · split <;> simp
    · simp
  · cases h

theorem endScrub_pending {s u : State} (h : endScrub s = some u) : u.pending = s.pending := by
  unfold endScrub at h
  split at h
  · cases h
    dsimp only
    split <;> simp
  · cases h

theorem endMessage_pending {s u : State} (h : endMessage s = some u) : u.pending = s.pending := by
  unfold endMessage at h
  split at h
  · cases h
  · split at h <;> cases h; rfl
  · split at h <;> cases h; rfl
  · cases h; rfl

/-- No event takes from the queue of commands. -/
theorem Occurs.pending {i : Instr} {s u : State} (h : Occurs i s u) : u.pending = s.pending := by
  cases h with
  | nothing => rfl
  | good p => exact takeGood_pending p s
  | malformed bytes => simp [takeMalformed, State.breakFrameIf_pending]
  | bad bytes => simp [takeBad, State.breakFrameIf_pending]
  | losesSignal => exact (FrameKeeps.loseSignal s).pending
  | takesReturn bytes => exact takeReturn_pending bytes s
  | takesOutcome o rest => exact State.actOnOutcome_pending _ o
  | endsFill _ _ ends => exact endFill_pending ends
  | endsCopy _ _ ends => exact endCopy_pending ends
  | endsCheck _ _ ends => exact endCheck_pending ends
  | endsScrub _ _ ends => exact endScrub_pending ends
  | begins _ _ begins =>
    obtain ⟨_, hq⟩ := Option.ite_none_right_eq_some.1 begins
    obtain ⟨q, _, rfl⟩ := Option.map_eq_some_iff.1 hq
    rfl
  | sends _ _ ends => exact endMessage_pending ends
  | announces _ _ announces =>
    obtain ⟨_, hu⟩ := Option.ite_none_right_eq_some.1 announces
    cases hu
    rfl
  | heads c r _ _ _ _ effect => rw [finishCommand_pending, effect.pending, State.slotReserved_pending]
  | resumes c r _ _ _ effect => rw [finishCommand_pending, effect.pending]

/-- Every row answers a next state. -/
theorem exec_next (i : Instr) (s : State) : ∃ t, exec i s = .next t := by cases i <;> exact ⟨_, rfl⟩

/-- Settles O2: every row answers a next state, and no event takes from the queue. -/
theorem everyStepGoesOn : Obligations.EveryStepGoesOn := by
  intro s
  have goes : ∃ t, step s = .next t := by
    unfold step
    split
    · exact ⟨s, rfl⟩
    · exact exec_next _ _
  obtain ⟨t, ht⟩ := goes
  refine ⟨t, ht, ?_⟩
  cases empty : s.pending with
  | nil =>
    rw [step, empty] at ht
    rw [← Host.Outcome.next.inj ht, empty]
    rfl
  | cons j rest =>
    rw [step_cons empty rfl] at ht
    have kept : t.pending = rest := by
      by_cases hpower : j = .powerOnReset
      · subst hpower; exact Host.Outcome.next.inj ht ▸ rfl
      by_cases hrelease : j = .resetRelease
      · subst hrelease; exact Host.Outcome.next.inj ht ▸ rfl
      obtain rfl | ⟨_, u, occurs, rfl⟩ := exec_occurs hpower hrelease ht
      · rfl
      · rw [State.reportEvents_pending, occurs.pending]
    exact kept

/-! ### The reset pin (R179) -/

/-- Settles O15: every row but the two of the pin takes a step that the pin holds. -/
theorem resetPinHoldsThePart : Obligations.ResetPinHoldsThePart := by
  refine ⟨fun s => rfl, fun s c held hpower hrelease => ?_⟩
  obtain ⟨t, ht⟩ := exec_next c s
  obtain rfl | ⟨free, _⟩ := exec_occurs hpower hrelease ht
  · exact ht
  · rw [held] at free; cases free

/-! ### The state after reset -/

theorem memoryLaw_reset : MemoryLaw State.reset := ⟨by decide, by decide⟩

theorem bankInv_reset : BankInv State.reset where
  conserved := by decide
  staged := by decide
  jobs := ⟨by decide, by decide, by decide, by decide, by decide, by decide⟩
  commit := ⟨by decide, by decide, by decide, by decide, by decide, by decide, fun p hp => by cases hp⟩

theorem referenceIntegrity_reset : ReferenceIntegrity State.reset where
  active := by decide
  saved c hc := by cases hc
  future p hp := by cases hp

theorem slotLaw_reset : SlotLaw State.reset := ⟨by decide, by decide, by decide⟩

theorem creditLaw_reset : CreditLaw State.reset := ⟨by decide, by decide, by decide⟩

theorem eventLaw_reset : EventLaw State.reset := ⟨by decide, by decide, by decide⟩

theorem receiverLaw_reset : ReceiverLaw State.reset where
  timer := by decide
  setting := by decide
  size h := by cases h
  lines := by decide
  unknown _ := ⟨rfl, rfl⟩
  capture _ _ h := by cases h
  address := by decide

/-- Settles O3, law by law. -/
theorem resetSatisfiesLaws : Obligations.ResetSatisfiesLaws :=
  ⟨memoryLaw_reset, bankInv_reset, referenceIntegrity_reset, slotLaw_reset, creditLaw_reset, eventLaw_reset,
    receiverLaw_reset⟩

end Sys2Proof.Machine
end

section
/-! Bank conservation (R29): how often a bank stands in the places of a bank map, counted by its lists and its handles, and the
moves that leave the count. -/

namespace Sys2Proof.Machine

/-! ### Counting places -/

theorem allHandles_eq_finRange : allHandles = List.finRange 10 := rfl

theorem sum_allHandles (f : Handle → Nat) : (allHandles.map f).sum = ∑ h, f h := by
  rw [allHandles_eq_finRange, ← Fin.sum_univ_def]

/-- How often the bank of a side that is there or not is the bank `k`. -/
def countSide (k : Bank) (side : Option Side) : Nat := (side.toList.map Side.bank).count k

theorem countSide_none (k : Bank) : countSide k none = 0 := rfl

theorem countSide_map {side : Option Side} {f : Side → Side} (k : Bank) (h : ∀ x, (f x).bank = x.bank) :
    countSide k (side.map f) = countSide k side := by
  cases side with
  | none => rfl
  | some x => simp [countSide, h]

theorem HandleRecord.count_bankList (r : HandleRecord) (k : Bank) :
    r.bankList.count k = countSide k r.active + countSide k r.staged + countSide k r.retained := by
  simp only [HandleRecord.bankList, countSide, List.map_append, List.count_append]

/-- The places of a bank: the three lists and the sides of every handle. -/
theorem BankMap.count_places (b : BankMap) (k : Bank) :
    b.places.count k =
      b.free.count k + b.quarantine.count k + b.withdrawn.count k + ∑ h, (b.record h).bankList.count k := by
  rw [BankMap.places, List.count_append, List.count_append, List.count_append, List.count_flatMap, ← sum_allHandles]
  rfl

/-- A record changed at one handle changes the handles' part of the count by what the record has more or less. -/
theorem BankMap.sum_bankList_changed {b b' : BankMap} {h : Handle} (others : ∀ h', h' ≠ h → b'.record h' = b.record h')
    (k : Bank) :
    (∑ h', (b'.record h').bankList.count k) + (b.record h).bankList.count k =
      (∑ h', (b.record h').bankList.count k) + (b'.record h).bankList.count k := by
  have split (c : BankMap) := Finset.add_sum_erase Finset.univ (fun h' => (c.record h').bankList.count k) (Finset.mem_univ h)
  have same : ∑ h' ∈ Finset.univ.erase h, (b'.record h').bankList.count k =
      ∑ h' ∈ Finset.univ.erase h, (b.record h').bankList.count k :=
    Finset.sum_congr rfl fun h' hh' => by rw [others h' (Finset.ne_of_mem_erase hh')]
  have before := split b
  have after := split b'
  omega

/-! ### Sides given up (R32) -/

/-- A side given up goes to the free list or to the quarantine set. -/
theorem count_givenUp (b : BankMap) (which : Handle → Bool) (side : HandleRecord → Option Side) (k : Bank) :
    (freedBanks (sidesOf b which side)).count k + (quarantinedBanks (sidesOf b which side)).count k =
      ∑ h, if which h then countSide k (side (b.record h)) else 0 := by
  rw [← sum_allHandles, sidesOf]
  generalize allHandles = l
  induction l with
  | nil => rfl
  | cons h l ih =>
    simp only [List.map_cons, List.sum_cons, ← ih]
    cases hw : which h with
    | false => simp [hw]
    | true =>
      cases hs : side (b.record h) with
      | none => simp [hw, hs, freedBanks, quarantinedBanks, countSide]
      | some x =>
        cases hm : x.mark with
        | true => simp [hw, hs, hm, freedBanks, quarantinedBanks, countSide, List.count_cons]; omega
        | false => simp [hw, hs, hm, freedBanks, quarantinedBanks, countSide, List.count_cons]; omega

/-- A move that gives up sides keeps conservation when every record has lost what it gave up and nothing else. -/
theorem BankMap.Conserved.givingUp {b b' : BankMap} {which : Handle → Bool} {side : HandleRecord → Option Side}
    (conserved : b.Conserved) (free : b'.free = b.free ++ freedBanks (sidesOf b which side))
    (quarantine : b'.quarantine = b.quarantine ++ quarantinedBanks (sidesOf b which side))
    (withdrawn : b'.withdrawn = b.withdrawn)
    (records : ∀ h k, (b'.record h).bankList.count k + (if which h then countSide k (side (b.record h)) else 0) =
      (b.record h).bankList.count k) : b'.Conserved := by
  intro k
  have before := conserved k
  have given := count_givenUp b which side k
  have handles : (∑ h, (b'.record h).bankList.count k) + (∑ h, if which h then countSide k (side (b.record h)) else 0) =
      ∑ h, (b.record h).bankList.count k := by
    rw [← Finset.sum_add_distrib]
    exact Finset.sum_congr rfl fun h _ => records h k
  rw [BankMap.count_places] at before ⊢
  rw [free, quarantine, withdrawn, List.count_append, List.count_append]
  omega

theorem sidesOf_single (b : BankMap) (h : Handle) (gone : Option Side) :
    sidesOf b (fun h' => decide (h' = h)) (fun _ => gone) = [gone] := by
  have one : allHandles.filter (fun h' => decide (h' = h)) = [h] := by revert h; decide
  rw [sidesOf, one]
  rfl

/-- A move at one handle keeps conservation when its record has lost what it gave up and nothing else. -/
theorem BankMap.MovedAt.conserved {b b' : BankMap} {h : Handle} {new : HandleRecord} {gone : Option Side}
    (m : b.MovedAt b' h new gone) (conserved : b.Conserved)
    (lost : ∀ k, new.bankList.count k + countSide k gone = (b.record h).bankList.count k) : b'.Conserved := by
  refine conserved.givingUp (which := fun h' => decide (h' = h)) (side := fun _ => gone) ?_ ?_ m.withdrawn fun h' k => ?_
  · rw [m.free, sidesOf_single]
  · rw [m.quarantine, sidesOf_single]
  · rw [m.record h']
    by_cases e : h' = h
    · subst e; simpa using lost k
    · simp [e]

/-- A changed record keeps conservation when it holds the same banks. -/
theorem BankMap.Conserved.modify {b : BankMap} (conserved : b.Conserved) (h : Handle) {f : HandleRecord → HandleRecord}
    (same : ∀ k, (f (b.record h)).bankList.count k = (b.record h).bankList.count k) : (b.modify h f).Conserved :=
  (b.modify_moved h f).conserved conserved fun k => by rw [countSide_none, Nat.add_zero, same k]

/-- Records that hold the same banks as before keep conservation. -/
theorem BankMap.Conserved.handles {b : BankMap} (conserved : b.Conserved) {handles : Vector HandleRecord 10}
    (same : ∀ h k, (handles[h.val]).bankList.count k = (b.record h).bankList.count k) :
    ({ b with handles := handles } : BankMap).Conserved := by
  intro k
  have before := conserved k
  rw [BankMap.count_places] at before ⊢
  rw [← before]
  exact congrArg _ (Finset.sum_congr rfl fun h _ => same h k)

/-! ### One handle -/

section Moves

variable {b : BankMap} (h : Handle)

theorem BankMap.Conserved.releaseActive (conserved : b.Conserved) : (b.releaseActive h).Conserved :=
  (b.releaseActive_moved h).conserved conserved fun k => by
    simp only [HandleRecord.count_bankList, countSide_none]; omega

theorem BankMap.Conserved.releaseStaged (conserved : b.Conserved) : (b.releaseStaged h).Conserved :=
  (b.releaseStaged_moved h).conserved conserved fun k => by
    simp only [HandleRecord.count_bankList, countSide_none]; omega

/-- The front bank of the free list becomes the staged side of a handle that had none (R57). -/
theorem BankMap.Conserved.stageFront {b' : BankMap} (conserved : b.Conserved) {bank : Bank} {rest : List Bank}
    (front : b.free = bank :: rest) (free : b'.free = rest) (quarantine : b'.quarantine = b.quarantine)
    (withdrawn : b'.withdrawn = b.withdrawn) (others : ∀ h', h' ≠ h → b'.record h' = b.record h')
    (staged : ∀ k, (b'.record h).bankList.count k = (b.record h).bankList.count k + [bank].count k) : b'.Conserved := by
  intro k
  have before := conserved k
  have changed := BankMap.sum_bankList_changed others k
  have new := staged k
  rw [BankMap.count_places] at before ⊢
  rw [front, List.count_cons] at before
  rw [List.count_singleton] at new
  rw [free, quarantine, withdrawn]
  omega

/-- The staged bank goes to the quarantine set, whatever its mark (R50, R53). -/
theorem BankMap.Conserved.quarantineStaged (conserved : b.Conserved) : (b.quarantineStaged h).Conserved := by
  unfold BankMap.quarantineStaged
  cases staged : (b.record h).staged with
  | none => exact conserved.modify h fun k => by simp [HandleRecord.count_bankList]
  | some side =>
    intro k
    have before := conserved k
    have changed := BankMap.sum_bankList_changed
      (b' := b.modify h fun r => { r with staged := none, stagedState := .none }) (h := h)
      (fun h' ne => (b.record_modify h h' _).trans (if_neg ne)) k
    rw [BankMap.record_modify, if_pos rfl] at changed
    simp only [HandleRecord.count_bankList (b.record h), HandleRecord.count_bankList { b.record h with
      staged := none, stagedState := .none }, staged, countSide_none] at changed
    have side_count : countSide k (some side) = [side.bank].count k := rfl
    rw [BankMap.count_places] at before ⊢
    simp only [BankMap.modify_free, BankMap.modify_quarantine, BankMap.modify_withdrawn, List.count_append]
    simp only [BankMap.record] at changed before ⊢
    omega

theorem BankMap.Conserved.markSource (conserved : b.Conserved) (source : Bank) : (b.markSource h source).Conserved :=
  conserved.modify h fun k => by
    simp only [HandleRecord.count_bankList]
    rw [countSide_map k fun x => by split <;> rfl]

theorem BankMap.Conserved.finishStaged (conserved : b.Conserved) (keyCount : Nat) (st : StagedState) :
    (b.finishStaged h keyCount st).Conserved :=
  conserved.modify h fun k => by
    simp only [HandleRecord.count_bankList]
    rw [countSide_map k (f := fun side => { side with keyCount := keyCount }) fun _ => rfl]

theorem BankMap.Conserved.markSide (conserved : b.Conserved) (name : SideName) :
    (b.modify h fun r => r.markSide name).Conserved :=
  conserved.modify h fun k => by
    cases name <;> simp only [HandleRecord.count_bankList, HandleRecord.markSide] <;> rw [countSide_map k (f := Side.withMark) fun _ => rfl]

end Moves

/-- A scrubbed bank of the quarantine set joins another list (R33, R34, R54). -/
theorem BankMap.Conserved.endScrub {b : BankMap} (conserved : b.Conserved) {bank : Bank} (sound : Bool)
    (quarantined : bank ∈ b.quarantine) : (b.endScrub bank sound).Conserved := by
  intro k
  have before := conserved k
  have present : [bank].count k ≤ b.quarantine.count k := by
    rw [List.count_singleton]
    split
    · next e => exact (beq_iff_eq.1 e) ▸ List.count_pos_iff.2 quarantined
    · exact Nat.zero_le _
  rw [BankMap.count_places] at before ⊢
  cases sound <;>
    simp only [BankMap.endScrub, BankMap.record, if_true, Bool.false_eq_true, if_false, List.count_append, List.count_erase,
      List.count_singleton] at before present ⊢ <;> omega

/-! ### All handles -/

theorem BankMap.Conserved.confirm {b : BankMap} (conserved : b.Conserved) : b.confirm.Conserved := by
  obtain ⟨record, free, quarantine, withdrawn⟩ := b.confirm_spec
  refine conserved.givingUp free quarantine withdrawn fun h k => ?_
  rw [record]
  simp only [HandleRecord.count_bankList, countSide_none, if_true]
  omega

theorem BankMap.Conserved.rollback {b : BankMap} (conserved : b.Conserved) (set : HandleSet) : (b.rollback set).Conserved := by
  obtain ⟨record, free, quarantine, withdrawn⟩ := b.rollback_spec set
  refine conserved.givingUp free quarantine withdrawn fun h k => ?_
  rw [record]
  split
  · simp only [HandleRecord.count_bankList, countSide_none]; omega
  · rfl

theorem BankMap.Conserved.releaseAllStaged {b : BankMap} (conserved : b.Conserved) (agrees : b.StagedAgrees) :
    b.releaseAllStaged.Conserved := by
  obtain ⟨record, free, quarantine, withdrawn⟩ := b.releaseAllStaged_spec agrees
  refine conserved.givingUp free quarantine withdrawn fun h k => ?_
  rw [record]
  simp only [HandleRecord.count_bankList, countSide_none, if_true]
  omega

/-- Under a guard a replaced active side takes the retained place, which is empty before (R28, R37). -/
theorem BankMap.Conserved.applyCommit {b : BankMap} (conserved : b.Conserved) (set : HandleSet) (underGuard : Bool)
    (unretained : ∀ h, (b.record h).retained = none) : (b.applyCommit set underGuard).Conserved := by
  obtain ⟨record, free, quarantine, withdrawn⟩ := b.applyCommit_spec set underGuard
  refine conserved.givingUp free quarantine withdrawn fun h k => ?_
  rw [record]
  split
  · cases underGuard with
    | false => simp [HandleRecord.count_bankList, countSide_none]; omega
    | true =>
      cases active : (b.record h).active <;>
        simp [HandleRecord.count_bankList, countSide_none, unretained h, active]
      omega
  · rfl

theorem BankMap.Conserved.setStagedStates {b : BankMap} (conserved : b.Conserved) (set : HandleSet) (st : StagedState) :
    (b.setStagedStates set st).Conserved := by
  obtain ⟨record, free, quarantine, withdrawn⟩ := b.setStagedStates_spec set st
  refine conserved.givingUp (which := fun _ => false) (side := fun _ => none) ?_ ?_ withdrawn fun h k => ?_
  · rw [free]; simp [sidesOf, freedBanks]
  · rw [quarantine]; simp [sidesOf, quarantinedBanks]
  · rw [record]
    split <;> rfl

end Sys2Proof.Machine
end

section
/-! What a step can do to the tables: the table memory, the bank map, the jobs, the configurations and the commit unit's record.
Every event does one of the moves of `TableStep` to them, or nothing. -/

namespace Sys2Proof.Machine

/-! ### The tables of two states -/

/-- Two states have the same table memory, banks, jobs, configurations and commit record. -/
structure SameTables (s t : State) : Prop where
  mem           : t.mem = s.mem
  banks         : t.banks = s.banks
  jobs          : t.jobs = s.jobs
  cfg           : t.cfg = s.cfg
  state         : t.commit.state = s.commit.state
  pendingCommit : t.commit.pendingCommit = s.commit.pendingCommit
  guardedSet    : t.commit.guardedSet = s.commit.guardedSet
  guardCounter  : t.commit.guardCounter = s.commit.guardCounter

theorem SameTables.refl (s : State) : SameTables s s := ⟨rfl, rfl, rfl, rfl, rfl, rfl, rfl, rfl⟩

theorem SameTables.trans {s t u : State} (a : SameTables s t) (b : SameTables t u) : SameTables s u :=
  ⟨b.mem.trans a.mem, b.banks.trans a.banks, b.jobs.trans a.jobs, b.cfg.trans a.cfg, b.state.trans a.state,
    b.pendingCommit.trans a.pendingCommit, b.guardedSet.trans a.guardedSet, b.guardCounter.trans a.guardCounter⟩

theorem SameTables.symm {s t : State} (a : SameTables s t) : SameTables t s :=
  ⟨a.mem.symm, a.banks.symm, a.jobs.symm, a.cfg.symm, a.state.symm, a.pendingCommit.symm, a.guardedSet.symm,
    a.guardCounter.symm⟩

/-- An operation that leaves the five blocks as they are. -/
theorem SameTables.of_blocks {s t : State} (mem : t.mem = s.mem) (banks : t.banks = s.banks) (jobs : t.jobs = s.jobs)
    (cfg : t.cfg = s.cfg) (commit : t.commit = s.commit) : SameTables s t :=
  ⟨mem, banks, jobs, cfg, congrArg _ commit, congrArg _ commit, congrArg _ commit, congrArg _ commit⟩

theorem SameTables.reportEvents (s : State) : SameTables s s.reportEvents :=
  .of_blocks (by simp) (by simp) (by simp) (by simp) (by simp)

theorem SameTables.signalPresent (s : State) : SameTables s s.signalPresent :=
  .of_blocks (by simp) (by simp) (by simp) (by simp) (by simp)

theorem SameTables.forward (s : State) (bytes : List Byte) : SameTables s (s.forward bytes) :=
  .of_blocks rfl rfl rfl rfl rfl

theorem SameTables.linkError (s : State) : SameTables s s.linkError := .of_blocks rfl rfl rfl rfl rfl

theorem SameTables.frameBroken (s : State) : SameTables s s.frameBroken := .of_blocks rfl rfl rfl rfl rfl

theorem SameTables.reply (s : State) (tag code : Byte) (status : Status) (payload : List Byte) :
    SameTables s (s.reply tag code status payload) := .of_blocks rfl rfl rfl rfl rfl

theorem SameTables.receiver (s : State) (rx : LaneReceiver) : SameTables s { s with rx := rx } :=
  .of_blocks rfl rfl rfl rfl rfl

theorem SameTables.raise (s : State) (k : EventKind) : SameTables s (s.raise k) := .of_blocks rfl rfl rfl rfl rfl

theorem SameTables.raiseIf (s : State) (cause : Bool) (k : EventKind) : SameTables s (s.raiseIf cause k) :=
  .of_blocks (by simp) (by simp) (by simp) (by simp) (by simp)

theorem SameTables.captureOverrun (s : State) : SameTables s s.captureOverrun := by
  rw [State.captureOverrun_eq]; exact .of_blocks rfl rfl rfl rfl rfl

theorem SameTables.captureSignalLost (s : State) : SameTables s s.captureSignalLost := by
  rw [State.captureSignalLost_eq]; exact .of_blocks rfl rfl rfl rfl rfl

theorem SameTables.captureFrameEnd (s : State) (clean : Bool) : SameTables s (s.captureFrameEnd clean) := by
  rw [State.captureFrameEnd_eq]; exact .of_blocks rfl rfl rfl rfl rfl

theorem SameTables.applyPendingMode (s : State) : SameTables s s.applyPendingMode := by
  rw [State.applyPendingMode_eq]; exact .of_blocks rfl rfl rfl rfl rfl

theorem SameTables.signatureFrameStart (s : State) : SameTables s s.signatureFrameStart := .of_blocks rfl rfl rfl rfl rfl

/-- An evaluation hands over an outcome, which is no part of the commit record (R112). -/
theorem SameTables.evaluate (s : State) : SameTables s s.evaluate := by
  rw [State.evaluate_eq]; exact ⟨rfl, rfl, rfl, rfl, rfl, rfl, rfl, rfl⟩

theorem SameTables.offerCommand (s : State) (c : CommandPacket) : SameTables s (s.offerCommand c) := by
  unfold State.offerCommand
  split <;> exact .of_blocks rfl rfl rfl rfl rfl

theorem SameTables.breakFrameIf (s : State) (readsLn : Bool) : SameTables s (s.breakFrameIf readsLn) := by
  unfold State.breakFrameIf
  split
  · exact .receiver _ _
  · exact .refl s

theorem SameTables.linkErrorUnless (s : State) (sound : Bool) : SameTables s (s.linkErrorUnless sound) := by
  cases sound
  · exact .linkError s
  · exact .refl s

theorem SameTables.finishCommand (c : CommandPacket) (r : CommandResult) : SameTables r.state (finishCommand c r) := by
  cases r <;> exact .of_blocks rfl rfl rfl rfl rfl

theorem SameTables.overrunStart (s : State) (frame width height : Half) :
    SameTables s (s.overrunStart frame width height) :=
  (SameTables.frameBroken s).trans <| (SameTables.captureOverrun _).trans <|
    (SameTables.receiver _ _).trans (.signatureFrameStart _)

theorem SameTables.frameEnd (s : State) (linesSent : Half) : SameTables s (s.frameEnd linesSent) := by
  unfold State.frameEnd
  refine .trans ?_ (.captureFrameEnd _ _)
  have counted : SameTables s (if s.rx.cleanAt linesSent then { s with rx := { s.rx with state := .blank } }
      else ({ s with rx := { s.rx with state := .blank } } : State).frameBroken) := by
    split
    · exact .receiver _ _
    · exact (SameTables.receiver s _).trans (.frameBroken _)
  dsimp only
  split
  · exact counted.trans ((SameTables.evaluate _).trans (.reportEvents _))
  · exact counted

theorem SameTables.loseSignal (s : State) : SameTables s s.loseSignal := by
  unfold State.loseSignal
  refine .trans (t := if s.rx.state = .frame then s.frameBroken.captureSignalLost else s) ?_
    ((SameTables.receiver _ _).trans (.raise _ _))
  split
  · exact (SameTables.frameBroken s).trans (.captureSignalLost _)
  · exact .refl s

/-! ### The moves -/

/-- A memory changed by writes to one bank. -/
structure WrittenIn (bank : Bank) (m m' : Memory) : Prop where
  wf        : m.wf → m'.wf
  sound     : m.Sound → m'.Sound
  elsewhere : ∀ b i, b ≠ bank → m'.at (wordAddr b i) = m.at (wordAddr b i)

theorem WrittenIn.refl (bank : Bank) (m : Memory) : WrittenIn bank m m := ⟨id, id, fun _ _ _ => rfl⟩

theorem WrittenIn.zeroWords (bank : Bank) (m : Memory) (k : Nat) : WrittenIn bank m (zeroWords m bank k) :=
  ⟨fun h => zeroWords_wf h bank k, fun h => zeroWords_sound h bank k, fun _ i hb => at_zeroWords_otherBank m hb k i⟩

theorem WrittenIn.copyFrom (disturb : Nat → Option Triple) (source bank : Bank) (m : Memory) (i n remaining : Nat) :
    WrittenIn bank m (copyFrom disturb source bank m i n remaining).memory :=
  have ⟨wf, sound, elsewhere⟩ := copyFrom_memory disturb source bank m i n remaining
  ⟨wf, sound, elsewhere⟩

/-- How the end of a job for a handle leaves its record (R48 to R53). -/
inductive StagedEnd (b : BankMap) (h : Handle) : BankMap → Prop where
  | opens : StagedEnd b h (b.setStagedState h .opened)
  | finishes (keyCount : Nat) (st : StagedState) (ready : st = .opened ∨ st = .loaded) :
      StagedEnd b h (b.finishStaged h keyCount st)
  | givesUp (source : Bank) : StagedEnd b h ((b.markSource h source).releaseStaged h)
  | quarantines : StagedEnd b h (b.quarantineStaged h)

/-- The row is an FS, when it is well formed: only an FS starts a frame. -/
def StartsFrame (i : Instr) : Prop := i.wellFormed = true → ∃ frame width height, i = .fs frame width height

/-- Every move that a row `i` can make of the tables. -/
inductive TableStep (i : Instr) (s : State) : State → Prop where
  | linkReset : TableStep i s s.linkReset
  | appliesCommit (p : PendingCommit) (row : StartsFrame i) (pending : s.commit.state = .pending)
      (record : s.commit.pendingCommit = some p) : TableStep i s (s.applyCommit p)
  | appliesRollback (row : StartsFrame i) (waiting : s.commit.state = .rollbackPending) : TableStep i s s.applyRollback
  | confirms (guarding : s.commit.state = .guarding) : TableStep i s s.confirmCommit
  | counts (guarding : s.commit.state = .guarding) (left : ¬ s.commit.guardCounter ≤ 1) :
      TableStep i s { s with commit := { s.commit with guardCounter := s.commit.guardCounter - 1 } }
  | requestsRollback (guarding : s.commit.state = .guarding) : TableStep i s s.requestRollback
  | looksUp (handles : Vector HandleRecord 10) (same : ∀ h : Handle, (s.banks.record h).SameButFaults handles[h.val]) :
      TableStep i s { s with banks := { s.banks with handles := handles } }
  | endsStaged (job : Job) (rest : List Job) (h : Handle) (side : Side) (m : Memory) (banks : BankMap)
      (running : s.jobs = job :: rest) (handle : job.work.handle? = some h) (staged : (s.banks.record h).staged = some side)
      (written : WrittenIn side.bank s.mem m) (check : job.work.stateOf = .checking → m = s.mem)
      (ends : StagedEnd s.banks h banks) : TableStep i s { s with jobs := rest, mem := m, banks := banks }
  | endsScrub (job : Job) (rest : List Job) (bank : Bank) (m : Memory) (sound : Bool) (running : s.jobs = job :: rest)
      (scrub : job.work = .scrub bank) (written : WrittenIn bank s.mem m) :
      TableStep i s { s with jobs := rest, mem := m, banks := s.banks.endScrub bank sound }
  | body (c : CommandPacket) (r : CommandResult) (row : c.code = codeReleaseTable → i = .releaseTable)
      (effect : BodyEffect c s r) : TableStep i s r.state

/-- A row leaves the tables as they are, or makes one move of them; the rest of the part may change before and after it. -/
def TableMove (i : Instr) (s u : State) : Prop :=
  ∃ a b, SameTables s a ∧ (b = a ∨ TableStep i a b) ∧ SameTables b u

section Moves

variable {i : Instr} {s a b u : State}

theorem TableMove.still (h : SameTables s u) : TableMove i s u := ⟨u, u, h, .inl rfl, .refl u⟩

theorem TableMove.step (before : SameTables s a) (move : TableStep i a b) (after : SameTables b u) : TableMove i s u :=
  ⟨a, b, before, .inr move, after⟩

theorem TableMove.pre (before : SameTables s a) (h : TableMove i a u) : TableMove i s u :=
  have ⟨a', b', before', move, after⟩ := h
  ⟨a', b', before.trans before', move, after⟩

theorem TableMove.post (h : TableMove i s a) (after : SameTables a u) : TableMove i s u :=
  have ⟨a', b', before, move, after'⟩ := h
  ⟨a', b', before, move, after'.trans after⟩

end Moves

/-! ### What the events do -/

section Events

variable {i : Instr}

theorem commitBoundary_move (row : StartsFrame i) (s : State) (f : Half) : TableMove i s (s.commitBoundary f) := by
  unfold State.commitBoundary
  split
  · exact .still (.refl s)
  · exact .still (.refl s)
  · next waiting => exact .step (.refl s) (.appliesRollback row waiting) (.refl _)
  · next pending =>
    split
    · exact .still (.refl s)
    · next p record =>
      split
      · exact .step (.refl s) (.appliesCommit p row pending record) (.refl _)
      · exact .still (.refl s)

theorem frameBoundary_move (row : StartsFrame i) (s : State) (frame width height : Half) :
    TableMove i s (s.frameBoundary frame width height) := by
  unfold State.frameBoundary
  refine .post (.post ?_ (.reportEvents _)) (.signatureFrameStart _)
  refine .pre ?_ (commitBoundary_move row _ frame)
  exact (SameTables.receiver s _).trans <| (SameTables.reportEvents _).trans <| (SameTables.applyPendingMode _).trans
    (.reportEvents _)

/-- Lookups change the read number, the handle records, the kinds and the own queue alone (R19, R20). -/
theorem State.afterLookups_eq (s : State) (l : Lookup) :
    s.afterLookups l = { s with
      reads := l.reads, banks := { s.banks with handles := l.handles },
      ret := { s.ret with own := (s.afterLookups l).ret.own }, events := (s.afterLookups l).events } := by
  cases found : l.firstFault with
  | none => rw [State.afterLookups_sound found]
  | some handles =>
    rw [State.afterLookups_faulty found, State.reportEvents]
    split <;> rfl

theorem frameLine_move (s : State) (line : Half) (pixels : List Word) : TableMove i s (s.frameLine line pixels) := by
  unfold State.frameLine
  dsimp only
  split
  · have grows := transformFrom_grows Config.readDisturbance s.mem s.cfg.active line.toNat 0 ⟨s.reads, s.banks.handles, none⟩
      (pixels.map tripleOfWord)
    refine .step (.refl s) (.looksUp _ grows.same) ?_
    rw [State.afterLookups_eq]
    exact .of_blocks rfl rfl rfl rfl rfl
  · exact .still (.of_blocks rfl rfl rfl rfl rfl)

theorem takeGood_move {p : ForwardPacket} (own : i.wellFormed = true → i.packet = some p) (s : State) :
    TableMove i s (takeGood p s) := by
  cases p with
  | fs frame width height =>
    have row : StartsFrame i := fun hwf => ⟨frame, width, height, by
      have hp := own hwf
      cases i with
      | fs => cases hp; rfl
      | _ => cases hp⟩
    refine .pre (.signalPresent s) (.post ?_ (.forward _ _))
    split
    · exact .still (.overrunStart _ _ _ _)
    · exact frameBoundary_move row _ _ _ _
  | ln line pixels =>
    simp only [takeGood, takeLn]
    refine .pre (.signalPresent s) ?_
    split
    · exact frameLine_move _ _ _
    · exact .still ((SameTables.receiver _ _).trans ((SameTables.linkError _).trans (.forward _ _)))
    · exact .still (.forward _ _)
    · exact .still (.forward _ _)
  | fe linesSent =>
    simp only [takeGood, takeFe]
    refine .still ((SameTables.signalPresent s).trans ?_)
    split
    · exact (SameTables.frameEnd _ linesSent).trans (.of_blocks rfl rfl rfl rfl rfl)
    · exact .of_blocks rfl rfl rfl rfl rfl
    · exact .of_blocks rfl rfl rfl rfl rfl
    · exact .of_blocks rfl rfl rfl rfl rfl
  | cm c =>
    simp only [takeGood, takeCm]
    refine .still ((SameTables.signalPresent s).trans ?_)
    have offered : SameTables s.signalPresent (if s.offers c then s.signalPresent.offerCommand c else s.signalPresent) := by
      split
      · exact .offerCommand _ c
      · exact .refl _
    split
    · exact offered.trans (.forward _ _)
    · exact offered
  | cr total =>
    simp only [takeGood, takeCr]
    refine .still ((SameTables.signalPresent s).trans ?_)
    split
    · exact .of_blocks rfl rfl rfl rfl rfl
    · exact .linkError _
  | lr => exact .step (.signalPresent s) .linkReset (.forward _ _)
  | fill => exact .still ((SameTables.signalPresent s).trans (.forward _ _))

theorem actOnOutcome_move (s : State) (o : GuardOutcome) : TableMove i s (s.actOnOutcome o) := by
  unfold State.actOnOutcome
  split
  · next guarding =>
    split
    · exact .step (.refl s) (.confirms guarding) (.refl _)
    · next left => exact .step (.refl s) (.counts guarding left) (.refl _)
  · next guarding => exact .step (.refl s) (.requestsRollback guarding) (.refl _)
  · exact .still (.refl s)
  · exact .still (.refl s)

theorem takeReturn_move (bytes : List Byte) (s : State) : TableMove i s (takeReturn bytes s) := by
  unfold takeReturn
  split
  · exact .still (.linkErrorUnless _ _)
  · split
    · exact .still (.linkError _)
    · refine .still (.trans ?_ (.linkErrorUnless _ _))
      exact .of_blocks rfl rfl rfl rfl rfl

theorem endFill_move {s u : State} (h : endFill s = some u) : TableMove i s u := by
  unfold endFill at h
  split at h
  · next running =>
    obtain ⟨side, staged, rfl⟩ := Option.map_eq_some_iff.1 h
    refine .step (.refl s) (.endsStaged _ _ _ side _ _ running rfl staged (.zeroWords _ _ Config.wordsPerBank)
      (by simp [JobWork.stateOf]) .opens) ?_
    exact .of_blocks (by simp) (by simp) (by simp [running]) (by simp) (by simp)
  · cases h

theorem endCopy_move {s u : State} (h : endCopy s = some u) : TableMove i s u := by
  unfold endCopy at h
  split at h
  · next handle source keyCount tag code rest running =>
    obtain ⟨side, staged, rfl⟩ := Option.map_eq_some_iff.1 h
    have written := WrittenIn.copyFrom Config.readDisturbance source side.bank s.mem 0 s.reads Config.wordsPerBank
    dsimp only
    split
    · next ends =>
      rw [ends] at written
      refine .step (.refl s) (.endsStaged _ _ _ side _ _ running rfl staged written (by simp [JobWork.stateOf])
        (.finishes keyCount .opened (.inl rfl))) ?_
      exact .of_blocks (by simp [CopyEnd.memory]) (by simp) (by simp [running]) (by simp) (by simp)
    · next ends =>
      rw [ends] at written
      refine .step (.refl s) (.endsStaged _ _ _ side _ _ running rfl staged written (by simp [JobWork.stateOf])
        (.givesUp source)) ?_
      exact .of_blocks (by simp [CopyEnd.memory]) (by simp) (by simp [running]) (by simp) (by simp)
    · next ends =>
      rw [ends] at written
      refine .step (.refl s) (.endsStaged _ _ _ side _ _ running rfl staged written (by simp [JobWork.stateOf])
        .quarantines) ?_
      exact .of_blocks (by simp [CopyEnd.memory]) (by simp) (by simp [running]) (by simp) (by simp)
  · cases h

theorem endCheck_move {s u : State} (h : endCheck s = some u) : TableMove i s u := by
  unfold endCheck at h
  split at h
  · next handle expected keyCount tag code rest running =>
    obtain ⟨side, staged, rfl⟩ := Option.map_eq_some_iff.1 h
    have move {banks : BankMap} (ends : StagedEnd s.banks handle banks) :=
      TableStep.endsStaged (i := i) _ _ _ side _ _ running rfl staged (.refl _ _) (fun _ => rfl) ends
    split
    · split
      · refine .step (.refl s) (move (.finishes keyCount .loaded (.inr rfl))) ?_
        exact .of_blocks (by simp) (by simp) (by simp [running]) (by simp) (by simp)
      · refine .step (.refl s) (move .opens) ?_
        exact .of_blocks (by simp) (by simp) (by simp [running]) (by simp) (by simp)
    · refine .step (.refl s) (move .quarantines) ?_
      exact .of_blocks (by simp) (by simp) (by simp [running]) (by simp) (by simp)
  · cases h

theorem endScrub_move {s u : State} (h : endScrub s = some u) : TableMove i s u := by
  unfold endScrub at h
  split at h
  · next bank tag code rest running =>
    cases h
    have move (sound : Bool) :=
      TableStep.endsScrub (i := i) _ _ bank _ sound running rfl (.zeroWords bank s.mem Config.wordsPerBank)
    dsimp only
    split
    · refine .step (.refl s) (move true) ?_
      exact .of_blocks (by simp) (by simp) (by simp [running]) (by simp) (by simp)
    · refine .step (.refl s) (move false) ?_
      exact .of_blocks (by simp) (by simp) (by simp [running]) (by simp) (by simp)
  · cases h

theorem endMessage_move {s u : State} (h : endMessage s = some u) : TableMove i s u := by
  unfold endMessage at h
  split at h
  · cases h
  · split at h <;> cases h
    exact .still (.of_blocks rfl rfl rfl rfl rfl)
  · split at h <;> cases h
    exact .still (.of_blocks rfl rfl rfl rfl rfl)
  · cases h
    exact .still (.of_blocks rfl rfl rfl rfl rfl)

/-- Every event leaves the tables as they are, or makes one move of them. -/
theorem Occurs.tables {s u : State} (h : Occurs i s u) : TableMove i s u := by
  cases h with
  | nothing => exact .still (.refl s)
  | good p _ own => exact takeGood_move own s
  | malformed bytes =>
    exact .still <| (SameTables.signalPresent s).trans <| (SameTables.breakFrameIf _ _).trans <|
      (SameTables.linkError _).trans (.forward _ _)
  | bad bytes => exact .still <| (SameTables.breakFrameIf _ _).trans <| (SameTables.linkError _).trans (.forward _ _)
  | losesSignal => exact .still (.loseSignal s)
  | takesReturn bytes => exact takeReturn_move bytes s
  | takesOutcome o rest =>
    refine .pre ?_ (actOnOutcome_move _ o)
    exact ⟨rfl, rfl, rfl, rfl, rfl, rfl, rfl, rfl⟩
  | endsFill _ _ ends => exact endFill_move ends
  | endsCopy _ _ ends => exact endCopy_move ends
  | endsCheck _ _ ends => exact endCheck_move ends
  | endsScrub _ _ ends => exact endScrub_move ends
  | begins _ _ begins =>
    obtain ⟨_, hq⟩ := Option.ite_none_right_eq_some.1 begins
    obtain ⟨q, _, rfl⟩ := Option.map_eq_some_iff.1 hq
    exact .still (.of_blocks rfl rfl rfl rfl rfl)
  | sends _ _ ends => exact endMessage_move ends
  | announces _ _ announces =>
    obtain ⟨_, hu⟩ := Option.ite_none_right_eq_some.1 announces
    cases hu
    exact .still (.of_blocks rfl rfl rfl rfl rfl)
  | heads c r row _ _ _ effect =>
    exact .step (a := s.slotReserved) (.of_blocks rfl rfl rfl rfl rfl) (.body c r row effect) (.finishCommand c r)
  | resumes c r row _ _ effect =>
    exact .step (.refl s) (.body c r (fun e => absurd e row) effect) (.finishCommand c r)

end Events

/-! ### Laws of the tables -/

/-- The inversion of a step for the tables: they stay, or are reset, or take one move. -/
theorem step_tables {s t : State} (h : step s = .next t) :
    SameTables s t ∨ (∃ i rest, s.pending = i :: rest ∧
      ((i = .powerOnReset ∧ t = ({ s with pending := rest } : State).powerOn) ∨
        TableMove i { s with pending := rest } t)) := by
  have popped (rest : List Instr) : SameTables s { s with pending := rest } := .of_blocks rfl rfl rfl rfl rfl
  obtain rfl | ⟨i, rest, front, rfl | ⟨hpower, rfl⟩ | rfl | ⟨u, occurs, rfl⟩⟩ := step_cases h
  · exact .inl (.refl _)
  · exact .inl (popped rest)
  · exact .inr ⟨i, rest, front, .inl ⟨hpower, rfl⟩⟩
  · exact .inl (.of_blocks rfl rfl rfl rfl rfl)
  · exact .inr ⟨i, rest, front, .inr (.post occurs.tables (.reportEvents u))⟩

/-- A property of the tables that a power-on reset and every move keep is kept by every step. -/
theorem law_kept {P : State → Prop} (same : ∀ {s t}, SameTables s t → P s → P t) (powerOn : ∀ {s}, P s → P s.powerOn)
    (move : ∀ {i s t}, TableStep i s t → P s → P t) {s t : State} (hs : P s) (h : step s = .next t) : P t := by
  have popped (rest : List Instr) : P { s with pending := rest } :=
    same (s := s) (.of_blocks rfl rfl rfl rfl rfl) hs
  obtain stays | ⟨i, rest, _, ⟨_, rfl⟩ | ⟨a, b, before, moves, after⟩⟩ := step_tables h
  · exact same stays hs
  · exact powerOn (popped rest)
  · have ha : P a := same before (popped rest)
    obtain rfl | moves := moves
    · exact same after ha
    · exact same after (move moves ha)

end Sys2Proof.Machine
end

section
/-! The memory law and the writes of a step (R22, R36, R46): every word a step changes lies in the bank that the running job writes,
or on the open staged side of a WRITE_TABLE. -/

namespace Sys2Proof.Machine

/-! ### Jobs stopped and dropped (R46, R61) -/

/-- Stopping looks at the memory, the banks, the jobs and the count of abandoned jobs alone. -/
theorem State.stopRunning_mem_congr {s t : State} (mem : t.mem = s.mem) (banks : t.banks = s.banks) (jobs : t.jobs = s.jobs)
    (abandons : t.abandons = s.abandons) : t.stopRunning.mem = s.stopRunning.mem := by
  unfold State.stopRunning
  rw [jobs]
  split
  · exact mem
  · simp only [mem, banks, abandons]

/-- What a stopped job had written lies in the bank it writes. -/
theorem State.stopRunning_memory (s : State) :
    (s.mem.wf → s.stopRunning.mem.wf) ∧ (s.mem.Sound → s.stopRunning.mem.Sound) ∧
      ∀ b i, s.runningBank ≠ some b → s.stopRunning.mem.at (wordAddr b i) = s.mem.at (wordAddr b i) := by
  cases jobs : s.jobs with
  | nil => simp [State.stopRunning, jobs]
  | cons job rest =>
    simp only [State.stopRunning, jobs]
    obtain ⟨wf, sound, elsewhere⟩ := partialWork_memory s.mem s.banks
      (min Config.wordsPerBank (Config.abandonedProgress s.abandons)) job.work
    refine ⟨wf, sound, fun b i other => ?_⟩
    obtain ⟨work, tag, code⟩ := job
    cases work with
    | fill h =>
      exact elsewhere b i (fun h' e side staged eq => by cases e; simp [State.runningBank, jobs, staged, eq] at other)
        (by simp [JobWork.scrubbed?])
    | copy h source keyCount =>
      exact elsewhere b i (fun h' e side staged eq => by cases e; simp [State.runningBank, jobs, staged, eq] at other)
        (by simp [JobWork.scrubbed?])
    | check h expected keyCount => simp [partialWork]
    | scrub bank =>
      exact elsewhere b i (fun h' e => by cases e) (by simpa [State.runningBank, jobs, JobWork.scrubbed?] using other)

/-- Dropping a handle's job writes at most what stopping the running job writes. -/
theorem State.dropJobOf_mem (s : State) (h : Handle) :
    (s.dropJobOf h).mem = s.mem ∨ (s.dropJobOf h).mem = s.stopRunning.mem := by
  cases jobs : s.jobs with
  | nil => simp [State.dropJobOf, jobs]
  | cons job rest =>
    cases works : job.work.worksOn h with
    | false => simp [State.dropJobOf, jobs, works]
    | true => simp [State.dropJobOf, jobs, works]

/-- A job dropped and answered ABORTED: the memory, the jobs and the own queue change (R61). -/
theorem State.abortJobOf_eq (s : State) (h : Handle) :
    s.abortJobOf h = { s with
      mem := (s.abortJobOf h).mem, abandons := (s.abortJobOf h).abandons,
      jobs := s.jobs.filter fun job => !job.work.worksOn h, ret := { s.ret with own := (s.abortJobOf h).ret.own } } := by
  unfold State.abortJobOf
  split
  · next absent =>
    have all : (s.jobs.filter fun job => !job.work.worksOn h) = s.jobs :=
      List.filter_eq_self.2 fun j hj => by simpa using List.find?_eq_none.1 absent j hj
    rw [all]
  · rw [State.dropJobOf_eq]
    rfl

theorem State.abortJobOf_mem (s : State) (h : Handle) :
    (s.abortJobOf h).mem = s.mem ∨ (s.abortJobOf h).mem = s.stopRunning.mem := by
  unfold State.abortJobOf
  split
  · exact .inl rfl
  · exact s.dropJobOf_mem h

/-- A link reset stops the running job and writes nothing else (R64). -/
theorem State.linkReset_mem (s : State) : s.linkReset.mem = s.stopRunning.mem := by
  have stopped (t : State) : t.linkResetCommit.linkResetReturn.mem = t.mem := rfl
  simp only [State.linkReset, stopped]
  apply State.stopRunning_mem_congr <;> dsimp only <;> split <;> rfl

/-! ### The memory law (R22) -/

theorem MemoryLaw.stopRunning {s : State} (law : MemoryLaw s) : s.stopRunning.mem.wf ∧ s.stopRunning.mem.Sound :=
  ⟨s.stopRunning_memory.1 law.canonical, s.stopRunning_memory.2.1 law.sound⟩

theorem BodyEffect.memoryLaw {c : CommandPacket} {s : State} {r : CommandResult} (effect : BodyEffect c s r)
    (law : MemoryLaw s) : MemoryLaw r.state := by
  have stopped := law.stopRunning
  obtain ⟨canonical, sound⟩ := law
  cases effect with
  | writes h side => exact ⟨writeRun_wf canonical _ _ _, writeRun_sound sound _ _ _⟩
  | discardsWithJob h =>
    obtain same | stop := s.abortJobOf_mem h
    · exact ⟨same ▸ canonical, same ▸ sound⟩
    · exact ⟨stop ▸ stopped.1, stop ▸ stopped.2⟩
  | reads => exact ⟨by simpa [CommandResult.state, State.readFrom] using canonical,
      by simpa [CommandResult.state, State.readFrom] using sound⟩
  | confirmsCommit => simp only [CommandResult.state, State.confirmCommit_eq]; exact ⟨canonical, sound⟩
  | _ => exact ⟨canonical, sound⟩

theorem TableStep.memoryLaw {i : Instr} {s t : State} (move : TableStep i s t) (law : MemoryLaw s) : MemoryLaw t := by
  cases move with
  | linkReset => exact ⟨s.linkReset_mem ▸ law.stopRunning.1, s.linkReset_mem ▸ law.stopRunning.2⟩
  | endsStaged _ _ _ _ _ _ _ _ _ written => exact ⟨written.wf law.canonical, written.sound law.sound⟩
  | endsScrub _ _ _ _ _ _ _ written => exact ⟨written.wf law.canonical, written.sound law.sound⟩
  | body c r _ effect => exact effect.memoryLaw law
  | confirms => rw [State.confirmCommit_eq]; exact ⟨law.canonical, law.sound⟩
  | appliesCommit p => rw [State.applyCommit_eq]; exact ⟨law.canonical, law.sound⟩
  | appliesRollback => rw [State.applyRollback_eq]; exact ⟨law.canonical, law.sound⟩
  | _ => exact ⟨law.canonical, law.sound⟩

/-- Settles O4: every write of a move goes through `writeWord`, which keeps the form and the parity. -/
theorem memoryLawKept : Obligations.MemoryLawKept := fun _ _ law hstep =>
  law_kept (P := MemoryLaw) (fun same h => ⟨same.mem ▸ h.canonical, same.mem ▸ h.sound⟩)
    (fun h => ⟨h.stopRunning.1, h.stopRunning.2⟩) TableStep.memoryLaw law hstep

end Sys2Proof.Machine
end

section
/-! The laws of the banks, the jobs and the commit unit (R27 to R29, R45, R47, R63, R70, R74, R75) under the moves of the tables. -/

namespace Sys2Proof.Machine

/-! ### Moves of one staged side -/

/-- A handle in this staged state has a job (R45). -/
abbrev StagedState.Busy (st : StagedState) : Prop := st ∈ [StagedState.filling, .copying, .checking]

/-- A move of the bank map that has to do with the staged side of one handle alone. -/
structure StagedMove (b b' : BankMap) (h : Handle) : Prop where
  others     : ∀ h', h' ≠ h → b'.record h' = b.record h'
  active     : (b'.record h).active.map Side.use = (b.record h).active.map Side.use
  retained   : (b'.record h).retained = (b.record h).retained
  quarantine : ∀ k ∈ b.quarantine, k ∈ b'.quarantine
  conserved  : b.Conserved → b'.Conserved
  agrees     : b.StagedAgrees → b'.StagedAgrees

section StagedMoves

variable {b b' b'' : BankMap} {h : Handle}

theorem StagedMove.trans (m : StagedMove b b' h) (m' : StagedMove b' b'' h) : StagedMove b b'' h :=
  ⟨fun h' ne => (m'.others h' ne).trans (m.others h' ne), m'.active.trans m.active, m'.retained.trans m.retained,
    fun k hk => m'.quarantine k (m.quarantine k hk), fun hb => m'.conserved (m.conserved hb), fun hb => m'.agrees (m.agrees hb)⟩

/-- A side is there after a change of one record exactly when the state says so. -/
theorem BankMap.StagedAgrees.of_others (agrees : b.StagedAgrees) (others : ∀ h', h' ≠ h → b'.record h' = b.record h')
    (new : (b'.record h).staged.isSome = decide ((b'.record h).stagedState ≠ .none)) : b'.StagedAgrees := by
  intro h'
  by_cases e : h' = h
  · exact e ▸ new
  · rw [others h' e]; exact agrees h'

theorem StagedMove.of_movedAt {new : HandleRecord} {gone : Option Side} (m : b.MovedAt b' h new gone)
    (active : new.active.map Side.use = (b.record h).active.map Side.use) (retained : new.retained = (b.record h).retained)
    (conserved : b.Conserved → b'.Conserved)
    (agrees : (b.record h).staged.isSome = decide ((b.record h).stagedState ≠ .none) →
      new.staged.isSome = decide (new.stagedState ≠ .none)) : StagedMove b b' h := by
  have others (h' : Handle) (ne : h' ≠ h) : b'.record h' = b.record h' := (m.record h').trans (if_neg ne)
  have here : b'.record h = new := (m.record h).trans (if_pos rfl)
  refine ⟨others, here ▸ active, here ▸ retained, fun k hk => ?_, conserved, fun hb => hb.of_others others ?_⟩
  · rw [m.quarantine]; exact List.mem_append_left _ hk
  · rw [here]; exact agrees (hb h)

theorem StagedMove.modify {f : HandleRecord → HandleRecord}
    (active : (f (b.record h)).active.map Side.use = (b.record h).active.map Side.use)
    (retained : (f (b.record h)).retained = (b.record h).retained) (conserved : b.Conserved → (b.modify h f).Conserved)
    (agrees : (b.record h).staged.isSome = decide ((b.record h).stagedState ≠ .none) →
      (f (b.record h)).staged.isSome = decide ((f (b.record h)).stagedState ≠ .none)) : StagedMove b (b.modify h f) h :=
  .of_movedAt (b.modify_moved h f) active retained conserved agrees

theorem StagedMove.releaseStaged (b : BankMap) (h : Handle) : StagedMove b (b.releaseStaged h) h :=
  .of_movedAt (b.releaseStaged_moved h) rfl rfl (·.releaseStaged h) fun _ => rfl

theorem StagedMove.setStagedState {st : StagedState} (side : (b.record h).staged.isSome = true) (ready : st ≠ .none) :
    StagedMove b (b.setStagedState h st) h :=
  .modify rfl rfl (fun hb => hb.modify h fun _ => rfl) fun _ => by simp [side, ready]

theorem StagedMove.finishStaged {keyCount : Nat} {st : StagedState} (side : (b.record h).staged.isSome = true)
    (ready : st ≠ .none) : StagedMove b (b.finishStaged h keyCount st) h :=
  .modify rfl rfl (fun hb => hb.finishStaged h keyCount st) fun _ => by simp [side, ready]

theorem Side.use_ite_withMark (x : Side) (p : Prop) [Decidable p] : (if p then x.withMark else x).use = x.use := by
  split <;> rfl

theorem StagedMove.markSource (b : BankMap) (h : Handle) (source : Bank) : StagedMove b (b.markSource h source) h :=
  .modify (by simp [Option.map_map, Function.comp_def, Side.use_ite_withMark]) rfl (·.markSource h source) id

theorem BankMap.record_quarantineStaged (b : BankMap) (h h' : Handle) : (b.quarantineStaged h).record h' =
    if h' = h then { b.record h with staged := none, stagedState := .none } else b.record h' := by
  unfold BankMap.quarantineStaged
  cases staged : (b.record h).staged with
  | none => simp only [BankMap.record_modify, ← staged]
  | some side => exact b.record_modify h h' fun r => { r with staged := none, stagedState := .none }

theorem StagedMove.quarantineStaged (b : BankMap) (h : Handle) : StagedMove b (b.quarantineStaged h) h := by
  have others (h' : Handle) (ne : h' ≠ h) : (b.quarantineStaged h).record h' = b.record h' :=
    (b.record_quarantineStaged h h').trans (if_neg ne)
  have here := (b.record_quarantineStaged h h).trans (if_pos rfl)
  refine ⟨others, by rw [here], by rw [here], fun k hk => ?_, (·.quarantineStaged h), fun hb => hb.of_others others ?_⟩
  · unfold BankMap.quarantineStaged
    split
    · exact hk
    · exact List.mem_append_left _ hk
  · rw [here]; rfl

/-- The end of a job for a handle with a staged side moves that side, and leaves the handle without a job. -/
theorem StagedEnd.move (ends : StagedEnd b h b') {side : Side} (staged : (b.record h).staged = some side) :
    StagedMove b b' h ∧ ¬ (b'.record h).stagedState.Busy := by
  have present : (b.record h).staged.isSome = true := by rw [staged]; rfl
  cases ends with
  | opens => exact ⟨.setStagedState present nofun, by simp [BankMap.setStagedState, BankMap.record_modify]⟩
  | finishes keyCount st ready =>
    have state : ((b.finishStaged h keyCount st).record h).stagedState = st := by
      simp [BankMap.finishStaged, BankMap.record_modify]
    obtain rfl | rfl := ready
    · exact ⟨.finishStaged present nofun, by simp [state]⟩
    · exact ⟨.finishStaged present nofun, by simp [state]⟩
  | givesUp source =>
    exact ⟨(StagedMove.markSource b h source).trans (.releaseStaged _ h), by simp [(BankMap.releaseStaged_moved _ h).record]⟩
  | quarantines => exact ⟨.quarantineStaged b h, by simp [BankMap.record_quarantineStaged]⟩

end StagedMoves

theorem State.record_openFrom (s : State) (h : Handle) (mode : Byte) (c : CommandPacket) (bank : Bank) (rest : List Bank)
    (h' : Handle) : (s.openFrom h mode c bank rest).banks.record h' = if h' = h then
      { s.banks.record h with
        staged := some ⟨bank, 0, false⟩, stagedState := if mode = 1 then .copying else .filling, nextSeq := 0,
        writeAccepted := false } else s.banks.record h' :=
  s.banks.record_modify h h' fun r => { r with
    staged := some ⟨bank, 0, false⟩, stagedState := if mode = 1 then .copying else .filling, nextSeq := 0,
    writeAccepted := false }

/-- The front bank of the free list, staged by an OPEN_TABLE (R57). -/
theorem State.openFrom_move {s : State} {h : Handle} {mode : Byte} {c : CommandPacket} {bank : Bank} {rest : List Bank}
    (unstaged : (s.banks.record h).staged = none) (front : s.banks.free = bank :: rest) :
    StagedMove s.banks (s.openFrom h mode c bank rest).banks h := by
  have here := (s.record_openFrom h mode c bank rest h).trans (if_pos rfl)
  have others (h' : Handle) (ne : h' ≠ h) := (s.record_openFrom h mode c bank rest h').trans (if_neg ne)
  refine ⟨others, by rw [here], by rw [here], fun k hk => hk, fun hb => ?_, fun hb => hb.of_others others ?_⟩
  · refine hb.stageFront h front rfl rfl rfl others fun k => ?_
    have one : countSide k (some ⟨bank, 0, false⟩) = [bank].count k := rfl
    simp only [here, HandleRecord.count_bankList, unstaged, countSide_none, one]
    omega
  · rw [here]; split <;> rfl

/-! ### The job queue -/

section Jobs

variable {s t : State}

/-- Jobs that leave the queue, and staged states and banks changed where no job of the queue needs them. -/
theorem JobLaw.shrink (law : JobLaw s) (sub : t.jobs.Sublist s.jobs)
    (kept : ∀ j ∈ s.jobs, ∀ h, j.work.handle? = some h → (t.banks.record h).stagedState.Busy → j ∈ t.jobs)
    (states : ∀ j ∈ t.jobs, ∀ h, j.work.handle? = some h →
      (t.banks.record h).stagedState = (s.banks.record h).stagedState)
    (busy : ∀ h, (t.banks.record h).stagedState.Busy → (s.banks.record h).stagedState.Busy)
    (quarried : ∀ j ∈ t.jobs, ∀ b, j.work.scrubbed? = some b → b ∈ s.banks.quarantine → b ∈ t.banks.quarantine) :
    JobLaw t where
  room := sub.length_le.trans law.room
  handles := (sub.filterMap _).nodup law.handles
  states j hj h hh := (states j hj h hh).trans (law.states j (sub.subset hj) h hh)
  busy h hb :=
    have ⟨j, hj, hh⟩ := law.busy h (busy h hb)
    ⟨j, kept j hj h hh hb, hh⟩
  scrubs := (sub.filterMap _).nodup law.scrubs
  quarried j hj b hb := quarried j hj b hb (law.quarried j (sub.subset hj) b hb)

/-- A handle with a job is busy. -/
theorem JobLaw.busy_of_job (law : JobLaw s) {j : Job} (hj : j ∈ s.jobs) {h : Handle} (hh : j.work.handle? = some h) :
    (s.banks.record h).stagedState.Busy := by
  rw [law.states j hj h hh]
  cases work : j.work with
  | scrub => rw [work] at hh; cases hh
  | _ => simp [JobWork.stateOf]

/-- The queue stays, and the staged states of busy handles stay. -/
theorem JobLaw.sameJobs (law : JobLaw s) (jobs : t.jobs = s.jobs)
    (states : ∀ h, (t.banks.record h).stagedState = (s.banks.record h).stagedState ∨
      (¬ (s.banks.record h).stagedState.Busy ∧ ¬ (t.banks.record h).stagedState.Busy))
    (quarantine : ∀ k ∈ s.banks.quarantine, k ∈ t.banks.quarantine) : JobLaw t := by
  refine law.shrink (jobs ▸ List.Sublist.refl _) (fun j hj h _ _ => jobs ▸ hj) (fun j hj h hh => ?_) (fun h hb => ?_)
    fun _ _ b _ hq => quarantine b hq
  · exact (states h).resolve_right fun idle => idle.1 (law.busy_of_job (jobs ▸ hj) hh)
  · obtain same | ⟨_, idle⟩ := states h
    · exact same ▸ hb
    · exact absurd hb idle

/-- The job of a handle leaves the queue, when its staged side is moved to a state without a job. -/
theorem JobLaw.without (law : JobLaw s) {h : Handle} (jobs : t.jobs = s.jobs.filter fun j => !j.work.worksOn h)
    (move : StagedMove s.banks t.banks h) (idle : ¬ (t.banks.record h).stagedState.Busy) : JobLaw t := by
  refine law.shrink (jobs ▸ List.filter_sublist) (fun j hj h' hh hb => ?_) (fun j hj h' hh => ?_) (fun h' hb => ?_)
    fun _ _ b _ hq => move.quarantine b hq
  · have ne : h' ≠ h := fun e => idle (e ▸ hb)
    have other : j.work.worksOn h = false := by
      rw [Bool.eq_false_iff]
      exact fun e => ne (Option.some.inj (hh.symm.trans ((j.work.worksOn_iff h).1 e)))
    rw [jobs]
    exact List.mem_filter.2 ⟨hj, by simp [other]⟩
  · have ne : h' ≠ h := by
      rintro rfl
      rw [jobs] at hj
      have other := (List.mem_filter.1 hj).2
      rw [(j.work.worksOn_iff h').2 hh] at other
      cases other
    rw [move.others h' ne]
  · have ne : h' ≠ h := fun e => idle (e ▸ hb)
    rwa [move.others h' ne] at hb

/-- Only the running job works on its handle. -/
theorem JobLaw.rest_eq_filter (law : JobLaw s) {job : Job} {rest : List Job} (running : s.jobs = job :: rest) {h : Handle}
    (handle : job.work.handle? = some h) : rest = s.jobs.filter fun j => !j.work.worksOn h := by
  have distinct := law.handles
  rw [running, List.filterMap_cons_some (f := fun j : Job => j.work.handle?) handle, List.nodup_cons] at distinct
  have others : (rest.filter fun j => !j.work.worksOn h) = rest := List.filter_eq_self.2 fun j hj => by
    have : j.work.worksOn h = false := Bool.eq_false_iff.2 fun e =>
      distinct.1 (List.mem_filterMap.2 ⟨j, hj, (j.work.worksOn_iff h).1 e⟩)
    simp [this]
  rw [running, List.filter_cons_of_neg (by simp [(job.work.worksOn_iff h).2 handle]), others]

/-- A job of a handle that had none joins the queue. -/
theorem JobLaw.queued (law : JobLaw s) {h : Handle} {job : Job} (jobs : t.jobs = s.jobs ++ [job])
    (room : s.jobs.length < Config.jobRoom) (handle : job.work.handle? = some h)
    (idle : ¬ (s.banks.record h).stagedState.Busy) (state : (t.banks.record h).stagedState = job.work.stateOf)
    (move : StagedMove s.banks t.banks h) : JobLaw t := by
  have noScrub : job.work.scrubbed? = none := by
    cases work : job.work with
    | scrub => rw [work] at handle; cases handle
    | _ => rfl
  have fresh (j : Job) (hj : j ∈ s.jobs) : j.work.handle? ≠ some h := fun hh => idle (law.busy_of_job hj hh)
  have mem (j : Job) : j ∈ t.jobs ↔ j ∈ s.jobs ∨ j = job := by rw [jobs]; simp
  refine ⟨by rw [jobs]; simpa using room, ?_, fun j hj h' hh => ?_, fun h' hb => ?_, ?_, fun j hj b hb => ?_⟩
  · rw [jobs, List.filterMap_append, List.filterMap_cons_some (f := fun j : Job => j.work.handle?) handle, List.filterMap_nil]
    refine List.nodup_append.2 ⟨law.handles, by simp, fun a ha a' ha' => ?_⟩
    obtain ⟨j, hj, hja⟩ := List.mem_filterMap.1 ha
    rw [List.mem_singleton.1 ha']
    exact fun e => fresh j hj (e ▸ hja)
  · obtain old | rfl := (mem j).1 hj
    · rw [move.others h' fun e => fresh j old (e ▸ hh)]
      exact law.states j old h' hh
    · obtain rfl := Option.some.inj (hh.symm.trans handle)
      exact state
  · by_cases e : h' = h
    · exact ⟨job, (mem job).2 (.inr rfl), e ▸ handle⟩
    · rw [move.others h' e] at hb
      obtain ⟨j, hj, hh⟩ := law.busy h' hb
      exact ⟨j, (mem j).2 (.inl hj), hh⟩
  · rw [jobs, List.filterMap_append, List.filterMap_cons_none (f := fun j : Job => j.work.scrubbed?) noScrub]
    simpa using law.scrubs
  · obtain old | rfl := (mem j).1 hj
    · exact move.quarantine b (law.quarried j old b hb)
    · rw [noScrub] at hb; cases hb

/-- A SCRUB of a bank that had none joins the queue. -/
theorem JobLaw.queuedScrub (law : JobLaw s) {bank : Bank} {job : Job} (jobs : t.jobs = s.jobs ++ [job])
    (banks : t.banks = s.banks) (room : s.jobs.length < Config.jobRoom) (scrub : job.work = .scrub bank)
    (quarantined : bank ∈ s.banks.quarantine) (unscrubbed : ∀ j ∈ s.jobs, j.work ≠ .scrub bank) : JobLaw t := by
  have noHandle : job.work.handle? = none := by rw [scrub]; rfl
  have scrubbed : job.work.scrubbed? = some bank := by rw [scrub]; rfl
  have mem (j : Job) : j ∈ t.jobs ↔ j ∈ s.jobs ∨ j = job := by rw [jobs]; simp
  refine ⟨by rw [jobs]; simpa using room, ?_, fun j hj h' hh => ?_, fun h' hb => ?_, ?_, fun j hj b hb => ?_⟩
  · rw [jobs, List.filterMap_append, List.filterMap_cons_none (f := fun j : Job => j.work.handle?) noHandle]
    simpa using law.handles
  · obtain old | rfl := (mem j).1 hj
    · rw [banks]; exact law.states j old h' hh
    · rw [noHandle] at hh; cases hh
  · rw [banks] at hb
    obtain ⟨j, hj, hh⟩ := law.busy h' hb
    exact ⟨j, (mem j).2 (.inl hj), hh⟩
  · rw [jobs, List.filterMap_append, List.filterMap_cons_some (f := fun j : Job => j.work.scrubbed?) scrubbed, List.filterMap_nil]
    refine List.nodup_append.2 ⟨law.scrubs, by simp, fun a ha a' ha' => ?_⟩
    obtain ⟨j, hj, hja⟩ := List.mem_filterMap.1 ha
    rw [List.mem_singleton.1 ha']
    rintro rfl
    refine unscrubbed j hj ?_
    cases work : j.work with
    | scrub b => rw [work] at hja; exact congrArg _ (Option.some.inj hja)
    | _ => rw [work] at hja; cases hja
  · obtain old | rfl := (mem j).1 hj
    · rw [banks]; exact law.quarried j old b hb
    · obtain rfl := Option.some.inj (hb.symm.trans scrubbed)
      rwa [banks]

/-- The running SCRUB leaves the queue, its bank the quarantine set. -/
theorem JobLaw.scrubEnded (law : JobLaw s) {job : Job} {bank : Bank} (sound : Bool) (running : s.jobs = job :: t.jobs)
    (scrub : job.work = .scrub bank) (banks : t.banks = s.banks.endScrub bank sound) : JobLaw t := by
  have record (h : Handle) : t.banks.record h = s.banks.record h := by rw [banks]; cases sound <;> rfl
  have quarantine : t.banks.quarantine = s.banks.quarantine.erase bank := by rw [banks]; cases sound <;> rfl
  refine law.shrink (running ▸ List.sublist_cons_self _ _) (fun j hj h hh _ => ?_) (fun j _ h _ => by rw [record])
    (fun h hb => record h ▸ hb) fun j hj b hb hq => ?_
  · rw [running] at hj
    obtain rfl | rest := List.mem_cons.1 hj
    · rw [scrub] at hh; cases hh
    · exact rest
  · have distinct := law.scrubs
    rw [running, List.filterMap_cons_some (f := fun j : Job => j.work.scrubbed?) (by rw [scrub]; rfl), List.nodup_cons] at distinct
    rw [quarantine]
    exact (List.mem_erase_of_ne fun e : b = bank => distinct.1 (List.mem_filterMap.2 ⟨j, hj, e ▸ hb⟩)).2 hq

end Jobs

end Sys2Proof.Machine
end

section
/-! Bank laws kept by every step (R27 to R29, R45, R70, R74, R75): every move of the tables keeps them. -/

namespace Sys2Proof.Machine

/-! ### The laws read the tables alone -/

section Congruence

variable {s t : State}

theorem JobLaw.congr (law : JobLaw s) (jobs : t.jobs = s.jobs) (banks : t.banks = s.banks) : JobLaw t :=
  law.sameJobs jobs (fun _ => .inl (by rw [banks])) fun _ hk => banks ▸ hk

theorem SameTables.guardInProgress (same : SameTables s t) : t.guardInProgress = s.guardInProgress := by
  simp only [State.guardInProgress, same.state]

theorem CommitLaw.congr (law : CommitLaw s) (same : SameTables s t) : CommitLaw t := by
  obtain ⟨pendingRecord, guardedSet, saved, counter, retained, frozen, committing⟩ := law
  constructor <;>
    simpa only [same.guardInProgress, same.banks, same.cfg, same.state, same.pendingCommit, same.guardedSet,
      same.guardCounter]

theorem BankInv.congr (inv : BankInv s) (same : SameTables s t) : BankInv t :=
  ⟨same.banks ▸ inv.conserved, same.banks ▸ inv.staged, inv.jobs.congr same.jobs same.banks, inv.commit.congr same⟩

theorem BankInv.powerOn (s : State) : BankInv s.powerOn := by
  obtain ⟨conserved, staged, jobs, ⟨pendingRecord, guardedSet, saved, counter, retained, frozen, committing⟩⟩ := bankInv_reset
  exact ⟨conserved, staged, jobs.congr rfl rfl, ⟨pendingRecord, guardedSet, saved, counter, retained, frozen, committing⟩⟩

/-- The commit unit and the configuration store stay; the banks keep what they need. -/
theorem CommitLaw.keep (law : CommitLaw s) (cfg : t.cfg = s.cfg) (commit : t.commit = s.commit)
    (retained : ∀ h : Handle, (t.banks.record h).retained.isSome = true → (s.banks.record h).retained.isSome = true)
    (committing : ∀ h : Handle, (s.banks.record h).stagedState = .committing → (t.banks.record h).stagedState = .committing) :
    CommitLaw t := by
  have guard : t.guardInProgress = s.guardInProgress := by simp only [State.guardInProgress, commit]
  refine ⟨?_, ?_, ?_, ?_, fun h hr => guard ▸ law.retained h (retained h hr), ?_, fun p hp h hh => ?_⟩
  · rw [commit]; exact law.pendingRecord
  · rw [commit, guard]; exact law.guardedSet
  · rw [cfg, guard]; exact law.saved
  · rw [commit, guard]; exact law.counter
  · rw [cfg, commit]; exact law.frozen
  · exact committing h (law.committing p (commit ▸ hp) h hh)

/-- A move of the staged side of a handle that is in no pending commit. -/
theorem BankInv.stagedMove (inv : BankInv s) {h : Handle} (move : StagedMove s.banks t.banks h) (cfg : t.cfg = s.cfg)
    (commit : t.commit = s.commit) (still : (s.banks.record h).stagedState ≠ .committing) (jobs : JobLaw t) : BankInv t := by
  refine ⟨move.conserved inv.conserved, move.agrees inv.staged, jobs, inv.commit.keep cfg commit (fun h' hr => ?_)
    fun h' hc => ?_⟩
  · by_cases e : h' = h
    · subst e; rwa [move.retained] at hr
    · rwa [move.others h' e] at hr
  · have ne : h' ≠ h := fun e => still (e ▸ hc)
    rwa [move.others h' ne]

/-- Records that keep their staged and retained sides and hold the same banks. -/
theorem BankInv.sameSides (inv : BankInv s) (free : t.banks.free = s.banks.free)
    (quarantine : t.banks.quarantine = s.banks.quarantine) (withdrawn : t.banks.withdrawn = s.banks.withdrawn)
    (staged : ∀ h, (t.banks.record h).staged.map Side.bank = (s.banks.record h).staged.map Side.bank)
    (state : ∀ h, (t.banks.record h).stagedState = (s.banks.record h).stagedState)
    (retained : ∀ h, (t.banks.record h).retained.map Side.bank = (s.banks.record h).retained.map Side.bank)
    (active : ∀ h, (t.banks.record h).active.map Side.bank = (s.banks.record h).active.map Side.bank)
    (jobs : t.jobs = s.jobs) (cfg : t.cfg = s.cfg) (commit : t.commit = s.commit) : BankInv t := by
  have isSome {x y : Option Side} (e : x.map Side.bank = y.map Side.bank) : x.isSome = y.isSome := by
    simpa using congrArg Option.isSome e
  have list (h : Handle) : (t.banks.record h).bankList = (s.banks.record h).bankList := by
    have toList (x : Option Side) : x.toList.map Side.bank = (x.map Side.bank).toList := by cases x <;> rfl
    simp only [HandleRecord.bankList, List.map_append, toList, active, staged, retained]
  refine ⟨fun k => ?_, fun h => ?_, inv.jobs.sameJobs jobs (fun h => .inl (state h)) fun k hk => quarantine ▸ hk,
    inv.commit.keep cfg commit (fun h hr => isSome (retained h) ▸ hr) fun h hc => (state h).trans hc⟩
  · have before := inv.conserved k
    rw [BankMap.count_places] at before ⊢
    simpa only [free, quarantine, withdrawn, list] using before
  · rw [isSome (staged h), state h]; exact inv.staged h

end Congruence

/-! ### The commit unit's moves -/

section CommitMoves

variable {s : State}

theorem CommitLaw.not_guarding (law : CommitLaw s) (state : s.commit.state = .idle ∨ s.commit.state = .pending) :
    s.commit.guardedSet = none ∧ s.cfg.saved = none ∧ s.commit.guardCounter = 0 ∧
      ∀ h : Handle, (s.banks.record h).retained = none := by
  have guard : s.guardInProgress = false := by obtain e | e := state <;> simp [State.guardInProgress, e]
  refine ⟨?_, ?_, ?_, fun h => ?_⟩
  · simpa [guard] using law.guardedSet
  · simpa [guard] using law.saved
  · simpa [guard] using law.counter
  · simpa [guard] using law.retained h

theorem CommitLaw.pendingCommit_none (law : CommitLaw s) (state : s.commit.state ≠ .pending) :
    s.commit.pendingCommit = none := by
  simpa [state] using law.pendingRecord

/-- Outside PENDING the staged configuration is not frozen (R70). -/
theorem CommitLaw.not_frozen (law : CommitLaw s) (state : s.commit.state ≠ .pending) : s.cfg.frozen = false := by
  simp [law.frozen, law.pendingCommit_none state]

theorem linkReset_banks (s : State) : s.linkReset.banks = s.banks.releaseAllStaged := by
  have blocks (t : State) : t.linkResetCommit.linkResetReturn.banks = t.banks := rfl
  simp only [State.linkReset, blocks]
  rw [State.stopRunning_eq]
  dsimp only
  split <;> rfl

theorem linkReset_jobs (s : State) : s.linkReset.jobs = [] := rfl

theorem linkReset_cfg (s : State) : s.linkReset.cfg = { s.cfg with staged := s.cfg.active, frozen := false } := by
  simp only [State.linkReset, State.linkResetCommit, State.linkResetReturn]
  rw [State.stopRunning_eq]
  dsimp only
  split <;> rfl

theorem linkReset_commit (s : State) : s.linkReset.commit =
    if s.commit.state = .pending then { s.commit with state := .idle, pendingCommit := none } else s.commit := by
  simp only [State.linkReset, State.linkResetCommit, State.linkResetReturn]
  rw [State.stopRunning_eq]
  dsimp only
  split <;> rfl

theorem BankInv.linkReset (inv : BankInv s) : BankInv s.linkReset := by
  obtain ⟨record, free, quarantine, withdrawn⟩ := s.banks.releaseAllStaged_spec inv.staged
  rw [← linkReset_banks] at record free quarantine withdrawn
  have commit := linkReset_commit s
  refine ⟨linkReset_banks s ▸ inv.conserved.releaseAllStaged inv.staged, fun h => by rw [record h]; rfl, ?_, ?_⟩
  · have none (j : Job) : j ∉ s.linkReset.jobs := by rw [linkReset_jobs]; exact List.not_mem_nil
    exact ⟨by rw [linkReset_jobs]; exact Nat.zero_le _, by rw [linkReset_jobs]; exact List.nodup_nil,
      fun j hj => absurd hj (none j), fun h hb => by rw [record h] at hb; simp at hb,
      by rw [linkReset_jobs]; exact List.nodup_nil, fun j hj => absurd hj (none j)⟩
  · have law := inv.commit
    by_cases pending : s.commit.state = .pending
    · obtain ⟨set, saved, counter, retained⟩ := law.not_guarding (.inr pending)
      rw [if_pos pending] at commit
      have guard : s.linkReset.guardInProgress = false := by simp [State.guardInProgress, commit]
      refine ⟨?_, ?_, ?_, ?_, fun h hr => ?_, ?_, fun p hp => ?_⟩
      · simp [commit]
      · simp [commit, guard, set]
      · simp [linkReset_cfg, guard, saved]
      · simp [commit, guard, counter]
      · simp [record h, retained h] at hr
      · simp [commit, linkReset_cfg]
      · simp [commit] at hp
    · have noCommit := law.pendingCommit_none pending
      rw [if_neg pending] at commit
      have guard : s.linkReset.guardInProgress = s.guardInProgress := by simp only [State.guardInProgress, commit]
      refine ⟨?_, ?_, ?_, ?_, fun h hr => ?_, ?_, fun p hp => ?_⟩
      · rw [commit]; exact law.pendingRecord
      · rw [commit, guard]; exact law.guardedSet
      · rw [linkReset_cfg, guard]; exact law.saved
      · rw [commit, guard]; exact law.counter
      · rw [record h] at hr; exact guard ▸ law.retained h hr
      · rw [commit, noCommit, linkReset_cfg]; rfl
      · rw [commit, noCommit] at hp; cases hp

theorem BankInv.applyCommit (inv : BankInv s) {p : PendingCommit} (pending : s.commit.state = .pending)
    (hp : s.commit.pendingCommit = some p) : BankInv (s.applyCommit p) := by
  have law := inv.commit
  obtain ⟨set, saved, counter, retained⟩ := law.not_guarding (.inr pending)
  have committing := law.committing p hp
  have frozen : s.cfg.frozen = p.includeConfig := by simp [law.frozen, hp]
  obtain ⟨record, free, quarantine, withdrawn⟩ := s.banks.applyCommit_spec p.handles (p.guardFrames != 0)
  have banks : (s.applyCommit p).banks = s.banks.applyCommit p.handles (p.guardFrames != 0) := rfl
  rw [← banks] at record free quarantine withdrawn
  have state (h : Handle) : ((s.applyCommit p).banks.record h).stagedState = if p.handles.has h = true then .none else
      (s.banks.record h).stagedState := by rw [record h]; split <;> rfl
  refine ⟨inv.conserved.applyCommit _ _ retained, fun h => ?_, inv.jobs.sameJobs rfl (fun h => ?_) fun k hk => ?_, ?_⟩
  · rw [record h]
    split
    · rfl
    · exact inv.staged h
  · by_cases e : p.handles.has h = true
    · exact .inr (by simp [state h, e, committing h e])
    · exact .inl (by simp [state h, e])
  · rw [quarantine]; exact List.mem_append_left _ hk
  · have state : (s.applyCommit p).commit.state = if p.guardFrames != 0 then .guarding else .idle := by
      simp only [State.applyCommit, State.raise]
    have guard : (s.applyCommit p).guardInProgress = (p.guardFrames != 0) := by
      rw [State.guardInProgress, state]
      cases p.guardFrames != 0 <;> rfl
    refine ⟨?_, ?_, ?_, ?_, fun h hr => ?_, ?_, fun q hq => ?_⟩
    · rw [state]; simp only [State.applyCommit, State.raise]; split <;> rfl
    · obtain under | under := Bool.eq_false_or_eq_true (p.guardFrames != 0) <;>
        simp only [State.applyCommit, State.raise, under, set] <;> rfl
    · obtain under | under := Bool.eq_false_or_eq_true (p.guardFrames != 0) <;>
        simp only [State.applyCommit, State.raise, under, saved] <;> rfl
    · obtain under | under := Bool.eq_false_or_eq_true (p.guardFrames != 0) <;>
        simp only [State.applyCommit, State.raise, under, counter] <;> [exact under; rfl]
    · rw [guard]
      by_contra under
      rw [record h] at hr
      have without : ¬ ((p.guardFrames != 0) = true ∧ (s.banks.record h).active ≠ none) := fun e => under e.1
      rw [if_neg without] at hr
      split at hr
      · dsimp only at hr; rw [retained h] at hr; cases hr
      · rw [retained h] at hr; cases hr
    · simp only [State.applyCommit, State.raise, frozen]; cases p.includeConfig <;> rfl
    · simp [State.applyCommit, State.raise] at hq

theorem applyRollback_commit (s : State) :
    s.applyRollback.commit = { s.commit with state := .idle, guardedSet := none, guardCounter := 0 } := by
  simp only [State.applyRollback, State.raise]

theorem applyRollback_cfg (s : State) :
    s.applyRollback.cfg = ⟨s.cfg.saved.getD s.cfg.active, s.cfg.saved.getD s.cfg.active, none, false⟩ := by
  simp only [State.applyRollback, State.raise]

theorem applyRollback_banks (s : State) : s.applyRollback.banks = s.banks.rollback (s.commit.guardedSet.getD 0) := by
  simp only [State.applyRollback, State.raise]

theorem applyRollback_jobs (s : State) : s.applyRollback.jobs = s.jobs := by rw [State.applyRollback_eq]

theorem BankInv.applyRollback (inv : BankInv s) (waiting : s.commit.state = .rollbackPending) : BankInv s.applyRollback := by
  obtain ⟨record, free, quarantine, withdrawn⟩ := s.banks.rollback_spec (s.commit.guardedSet.getD 0)
  rw [← applyRollback_banks] at record free quarantine withdrawn
  refine ⟨applyRollback_banks s ▸ inv.conserved.rollback _, fun h => ?_,
    inv.jobs.sameJobs (applyRollback_jobs s) (fun h => .inl ?_) fun k hk => ?_, ?_⟩
  · rw [record h]; split <;> exact inv.staged h
  · rw [record h]; split <;> rfl
  · rw [quarantine]; exact List.mem_append_left _ hk
  · have noCommit := inv.commit.pendingCommit_none (by simp [waiting])
    have guard : s.applyRollback.guardInProgress = false := by simp [State.guardInProgress, applyRollback_commit]
    refine ⟨?_, ?_, ?_, ?_, fun h hr => ?_, ?_, fun p hp => ?_⟩
    · simp [applyRollback_commit, noCommit]
    · simp [applyRollback_commit, guard]
    · simp [applyRollback_cfg, guard]
    · simp [applyRollback_commit, guard]
    · rw [record h] at hr
      split at hr
      · cases hr
      · next touched => simp [hr] at touched
    · simp [applyRollback_cfg, applyRollback_commit, noCommit]
    · simp [applyRollback_commit, noCommit] at hp

theorem confirmCommit_commit (s : State) :
    s.confirmCommit.commit = { s.commit with state := .idle, guardedSet := none, guardCounter := 0 } := by
  rw [State.confirmCommit_eq]

theorem confirmCommit_cfg (s : State) : s.confirmCommit.cfg = { s.cfg with saved := none } := by
  rw [State.confirmCommit_eq]

theorem confirmCommit_banks (s : State) : s.confirmCommit.banks = s.banks.confirm := by rw [State.confirmCommit_eq]

theorem confirmCommit_jobs (s : State) : s.confirmCommit.jobs = s.jobs := by rw [State.confirmCommit_eq]

theorem BankInv.confirmCommit (inv : BankInv s) (guarding : s.commit.state = .guarding) : BankInv s.confirmCommit := by
  obtain ⟨record, free, quarantine, withdrawn⟩ := s.banks.confirm_spec
  rw [← confirmCommit_banks] at record free quarantine withdrawn
  refine ⟨confirmCommit_banks s ▸ inv.conserved.confirm, fun h => ?_,
    inv.jobs.sameJobs (confirmCommit_jobs s) (fun h => .inl ?_) fun k hk => ?_, ?_⟩
  · rw [record h]; exact inv.staged h
  · rw [record h]
  · rw [quarantine]; exact List.mem_append_left _ hk
  · have noCommit := inv.commit.pendingCommit_none (by simp [guarding])
    have frozen := inv.commit.not_frozen (by simp [guarding])
    have guard : s.confirmCommit.guardInProgress = false := by simp [State.guardInProgress, confirmCommit_commit]
    refine ⟨?_, ?_, ?_, ?_, fun h hr => ?_, ?_, fun p hp => ?_⟩
    · simp [confirmCommit_commit, noCommit]
    · simp [confirmCommit_commit, guard]
    · simp [confirmCommit_cfg, guard]
    · simp [confirmCommit_commit, guard]
    · rw [record h] at hr; cases hr
    · simp [confirmCommit_cfg, confirmCommit_commit, noCommit, frozen]
    · simp [confirmCommit_commit, noCommit] at hp

theorem BankInv.requestRollback (inv : BankInv s) (guarding : s.commit.state = .guarding) : BankInv s.requestRollback := by
  obtain ⟨pendingRecord, guardedSet, saved, counter, retained, frozen, committing⟩ := inv.commit
  have guard : s.requestRollback.guardInProgress = s.guardInProgress := by
    simp [State.guardInProgress, State.requestRollback, guarding]
  refine ⟨inv.conserved, inv.staged, inv.jobs.congr rfl rfl, ?_, guard ▸ guardedSet, guard ▸ saved, guard ▸ counter,
    guard ▸ retained, frozen, committing⟩
  simpa [State.requestRollback, guarding] using pendingRecord

/-- Before its last count the guard counter stays above 0 (R93). -/
theorem BankInv.count (inv : BankInv s) (left : ¬ s.commit.guardCounter ≤ 1) :
    BankInv { s with commit := { s.commit with guardCounter := s.commit.guardCounter - 1 } } := by
  obtain ⟨pendingRecord, guardedSet, saved, counter, retained, frozen, committing⟩ := inv.commit
  refine ⟨inv.conserved, inv.staged, inv.jobs.congr rfl rfl, pendingRecord, guardedSet, saved, ?_, retained, frozen, committing⟩
  have before : s.commit.guardCounter ≠ 0 := by bv_omega
  have after : s.commit.guardCounter - 1 ≠ 0 := by bv_omega
  have guard : s.guardInProgress = true := counter ▸ bne_iff_ne.2 before
  exact (bne_iff_ne.2 after).trans guard.symm

theorem BankInv.acceptCommit (inv : BankInv s) {p : PendingCommit} (idle : s.commit.state = .idle)
    (ready : s.firstNotLoaded p.handles = none) : BankInv (s.acceptCommit p) := by
  have law := inv.commit
  obtain ⟨set, saved, counter, retained⟩ := law.not_guarding (.inl idle)
  have frozen := law.not_frozen (by simp [idle])
  obtain ⟨record, free, quarantine, withdrawn⟩ := s.banks.setStagedStates_spec p.handles .committing
  have banks : (s.acceptCommit p).banks = s.banks.setStagedStates p.handles .committing := rfl
  rw [← banks] at record free quarantine withdrawn
  have loaded (h : Handle) (hh : p.handles.has h = true) : (s.banks.record h).stagedState = .loaded := by
    simpa [hh] using List.find?_eq_none.1 ready h (mem_allHandles h)
  refine ⟨inv.conserved.setStagedStates _ _, fun h => ?_, inv.jobs.sameJobs rfl (fun h => ?_) fun k hk => quarantine ▸ hk, ?_⟩
  · rw [record h]
    split
    · next hh => simpa [loaded h hh] using inv.staged h
    · exact inv.staged h
  · rw [record h]
    split
    · next hh => exact .inr (by simp [loaded h hh])
    · exact .inl rfl
  · refine ⟨rfl, ?_, ?_, ?_, fun h hr => ?_, ?_, fun q hq h hh => ?_⟩
    · simp [State.acceptCommit, State.guardInProgress, set]
    · simp [State.acceptCommit, State.guardInProgress, saved]
    · simp [State.acceptCommit, State.guardInProgress, counter]
    · rw [record h] at hr
      split at hr <;> simp [retained h] at hr
    · simp [State.acceptCommit, frozen]
    · obtain rfl := Option.some.inj hq
      rw [record h, if_pos hh]

theorem BankInv.cancelCommit (inv : BankInv s) (pending : s.commit.state = .pending) : BankInv s.cancelCommit := by
  have law := inv.commit
  obtain ⟨set, saved, counter, retained⟩ := law.not_guarding (.inr pending)
  obtain ⟨p, hp⟩ := Option.isSome_iff_exists.1 (law.pendingRecord.trans (by simp [pending]))
  obtain ⟨record, free, quarantine, withdrawn⟩ := s.banks.setStagedStates_spec p.handles .loaded
  have banks : s.cancelCommit.banks = s.banks.setStagedStates p.handles .loaded := by simp [State.cancelCommit, hp]
  rw [← banks] at record free quarantine withdrawn
  refine ⟨banks ▸ inv.conserved.setStagedStates _ _, fun h => ?_,
    inv.jobs.sameJobs rfl (fun h => ?_) fun k hk => quarantine ▸ hk, ?_⟩
  · rw [record h]
    split
    · next hh => simpa [law.committing p hp h hh] using inv.staged h
    · exact inv.staged h
  · rw [record h]
    split
    · next hh => exact .inr (by simp [law.committing p hp h hh])
    · exact .inl rfl
  · refine ⟨rfl, ?_, ?_, ?_, fun h hr => ?_, rfl, fun q hq => nomatch hq⟩
    · simp [State.cancelCommit, State.guardInProgress, set]
    · simp [State.cancelCommit, State.guardInProgress, saved]
    · simp [State.cancelCommit, State.guardInProgress, counter]
    · rw [record h] at hr
      split at hr <;> simp [retained h] at hr

end CommitMoves

/-! ### Every move -/

section Moves

variable {s : State} {i : Instr}

/-- The record of a handle whose staged side an operation gives up. -/
theorem StagedState.ne_committing_of_busy {st : StagedState} (busy : st.Busy) : st ≠ .committing := by
  rintro rfl
  simp at busy

theorem openWork_handle (h : Handle) (copy : Bool) (active : Option Side) : (openWork h copy active).handle? = some h := by
  unfold openWork
  split <;> rfl

theorem openWork_stateOf {h : Handle} {mode : Byte} {active : Option Side} (source : mode = 1 → active ≠ none) :
    (openWork h (decide (mode = 1)) active).stateOf = if mode = 1 then .copying else .filling := by
  by_cases copy : mode = 1
  · cases active with
    | none => exact absurd rfl (source copy)
    | some side => simp [openWork, copy, JobWork.stateOf]
  · rw [if_neg copy, decide_eq_false copy]; rfl

theorem BankInv.staged_none (inv : BankInv s) {h : Handle} (unstaged : (s.banks.record h).stagedState = .none) :
    (s.banks.record h).staged = none := by
  simpa [unstaged] using inv.staged h

theorem BankInv.staged_present (inv : BankInv s) {h : Handle} (staged : (s.banks.record h).stagedState ≠ .none) :
    (s.banks.record h).staged.isSome = true := by
  rw [inv.staged h, decide_eq_true staged]

theorem abortJobOf_giveUpStaged_blocks (s : State) (h : Handle) :
    ((s.abortJobOf h).giveUpStaged h).banks = s.banks.releaseStaged h ∧
      ((s.abortJobOf h).giveUpStaged h).jobs = (s.jobs.filter fun job => !job.work.worksOn h) ∧
      ((s.abortJobOf h).giveUpStaged h).cfg = s.cfg ∧ ((s.abortJobOf h).giveUpStaged h).commit = s.commit := by
  rw [s.abortJobOf_eq h]
  exact ⟨rfl, rfl, rfl, rfl⟩

theorem BankMap.releaseStaged_stagedState (b : BankMap) (h : Handle) : ((b.releaseStaged h).record h).stagedState = .none := by
  rw [(b.releaseStaged_moved h).record, if_pos rfl]

theorem BankInv.discardsWithJob (inv : BankInv s) {h : Handle} (busy : (s.banks.record h).stagedState.Busy) :
    BankInv ((s.abortJobOf h).giveUpStaged h) := by
  obtain ⟨banks, jobs, cfg, commit⟩ := abortJobOf_giveUpStaged_blocks s h
  have move : StagedMove s.banks ((s.abortJobOf h).giveUpStaged h).banks h := banks ▸ .releaseStaged s.banks h
  have idle : ((((s.abortJobOf h).giveUpStaged h).banks).record h).stagedState = .none := by
    rw [banks, BankMap.releaseStaged_stagedState]
  exact inv.stagedMove move cfg commit (StagedState.ne_committing_of_busy busy) (inv.jobs.without jobs move (by simp [idle]))

theorem BankInv.discards (inv : BankInv s) {h : Handle}
    (still : (s.banks.record h).stagedState = .opened ∨ (s.banks.record h).stagedState = .loaded) :
    BankInv (s.giveUpStaged h) := by
  have move : StagedMove s.banks (s.giveUpStaged h).banks h := .releaseStaged s.banks h
  have idle : ((s.giveUpStaged h).banks.record h).stagedState = .none := s.banks.releaseStaged_stagedState h
  refine inv.stagedMove move rfl rfl (by obtain e | e := still <;> simp [e])
    (inv.jobs.sameJobs rfl (fun h' => ?_) move.quarantine)
  by_cases e : h' = h
  · subst e; exact .inr ⟨by obtain e | e := still <;> simp [e], by simp [idle]⟩
  · exact .inl (by rw [move.others h' e])

theorem BankInv.releases (inv : BankInv s) (h : Handle) : BankInv { s with banks := s.banks.releaseActive h } := by
  have moved := s.banks.releaseActive_moved h
  have staged (h' : Handle) : ((s.banks.releaseActive h).record h').staged = (s.banks.record h').staged := by
    rw [moved.record h']; split <;> simp [*]
  have state (h' : Handle) : ((s.banks.releaseActive h).record h').stagedState = (s.banks.record h').stagedState := by
    rw [moved.record h']; split <;> simp [*]
  have retained (h' : Handle) : ((s.banks.releaseActive h).record h').retained = (s.banks.record h').retained := by
    rw [moved.record h']; split <;> simp [*]
  refine ⟨inv.conserved.releaseActive h, fun h' => ?_, inv.jobs.sameJobs rfl (fun h' => .inl (state h')) fun k hk => ?_,
    inv.commit.keep rfl rfl (fun h' hr => ?_) fun h' hc => ?_⟩
  · dsimp only; rw [staged, state]; exact inv.staged h'
  · dsimp only; rw [moved.quarantine]; exact List.mem_append_left _ hk
  · dsimp only at hr; rwa [retained] at hr
  · dsimp only; rwa [state]

theorem HandleRecord.markSide_banks (r : HandleRecord) (name : SideName) :
    (r.markSide name).active.map Side.bank = r.active.map Side.bank ∧
      (r.markSide name).staged.map Side.bank = r.staged.map Side.bank ∧
      (r.markSide name).retained.map Side.bank = r.retained.map Side.bank ∧
      (r.markSide name).stagedState = r.stagedState := by
  have marked (x : Option Side) : (x.map Side.withMark).map Side.bank = x.map Side.bank := by cases x <;> rfl
  cases name <;> simp [HandleRecord.markSide, marked]

theorem readFrom_banks (s : State) (h : Handle) (name : SideName) (count : Nat) (faulty : Bool) :
    (s.readFrom h name count faulty).banks =
      if faulty then s.banks.modify h fun r => r.markSide name else s.banks := by
  simp [State.readFrom]

theorem BankInv.reads (inv : BankInv s) (h : Handle) (name : SideName) (count : Nat) (faulty : Bool) :
    BankInv (s.readFrom h name count faulty) := by
  have banks := readFrom_banks s h name count faulty
  cases faulty with
  | false => exact inv.congr (.of_blocks rfl banks rfl rfl rfl)
  | true =>
    rw [if_pos rfl] at banks
    have record (h' : Handle) : ((s.readFrom h name count true).banks.record h') =
        if h' = h then (s.banks.record h).markSide name else s.banks.record h' := by rw [banks, BankMap.record_modify]
    obtain ⟨active, staged, retained, state⟩ := (s.banks.record h).markSide_banks name
    refine inv.sameSides (by rw [banks]; rfl) (by rw [banks]; rfl) (by rw [banks]; rfl) (fun h' => ?_) (fun h' => ?_)
      (fun h' => ?_) (fun h' => ?_) rfl rfl rfl
    · rw [record]; split
      · next e => rw [e]; exact staged
      · rfl
    · rw [record]; split
      · next e => rw [e]; exact state
      · rfl
    · rw [record]; split
      · next e => rw [e]; exact retained
      · rfl
    · rw [record]; split
      · next e => rw [e]; exact active
      · rfl

theorem BodyEffect.bankInv {c : CommandPacket} {r : CommandResult} (effect : BodyEffect c s r) (inv : BankInv s) :
    BankInv r.state := by
  cases effect with
  | acceptsCommit p _ idle ready => exact inv.acceptCommit idle ready
  | cancelsCommit _ pending => exact inv.cancelCommit pending
  | confirmsCommit _ guarding => exact inv.confirmCommit guarding
  | requestsRollback _ guarding => exact inv.requestRollback guarding
  | writesConfig staged => exact ⟨inv.conserved, inv.staged, inv.jobs.congr rfl rfl, inv.commit.1, inv.commit.2, inv.commit.3,
      inv.commit.4, inv.commit.5, inv.commit.6, inv.commit.7⟩
  | opens h mode bank rest unstaged front source room =>
    have move := State.openFrom_move (mode := mode) (c := c) (inv.staged_none unstaged) front
    have state : ((s.openFrom h mode c bank rest).banks.record h).stagedState = if mode = 1 then .copying else .filling := by
      rw [State.record_openFrom, if_pos rfl]
    exact inv.stagedMove move rfl rfl (by simp [unstaged]) (inv.jobs.queued rfl room (openWork_handle _ _ _)
      (by simp [unstaged]) (state.trans (openWork_stateOf source).symm) move)
  | closes h opened room =>
    have move : StagedMove s.banks (s.closeFrom h c).banks h :=
      .setStagedState (inv.staged_present (by simp [opened])) nofun
    refine inv.stagedMove move rfl rfl (by simp [opened]) (inv.jobs.queued rfl room rfl (by simp [opened]) ?_ move)
    simp [CommandResult.state, State.closeFrom, BankMap.record_modify, JobWork.stateOf]
  | scrubs bank quarantined unscrubbed room =>
    exact ⟨inv.conserved, inv.staged, inv.jobs.queuedScrub rfl rfl room rfl quarantined unscrubbed,
      inv.commit.keep rfl rfl (fun _ => id) fun _ => id⟩
  | writes h side _ opened =>
    have move : StagedMove s.banks (s.writeFrom h side.bank c).banks h :=
      .modify (f := fun r => { r with nextSeq := (s.banks.record h).nextSeq + 1, writeAccepted := true }) rfl rfl
        (fun hb => hb.modify h fun _ => rfl) id
    refine inv.stagedMove move rfl rfl (by simp [opened]) (inv.jobs.sameJobs rfl (fun h' => .inl ?_) move.quarantine)
    by_cases e : h' = h
    · subst e; simp [CommandResult.state, State.writeFrom, BankMap.record_modify]
    · exact congrArg _ (move.others h' e)
  | discardsWithJob h _ busy => exact inv.discardsWithJob busy
  | discards h _ still => exact inv.discards still
  | releases h => exact inv.releases h
  | reads h name count faulty => exact inv.reads h name count faulty
  | _ => exact inv.congr (.of_blocks rfl rfl rfl rfl rfl)

theorem TableStep.bankInv {t : State} (move : TableStep i s t) (inv : BankInv s) : BankInv t := by
  cases move with
  | linkReset => exact inv.linkReset
  | appliesCommit p _ pending record => exact inv.applyCommit pending record
  | appliesRollback _ waiting => exact inv.applyRollback waiting
  | confirms guarding => exact inv.confirmCommit guarding
  | counts _ left => exact inv.count left
  | requestsRollback guarding => exact inv.requestRollback guarding
  | looksUp handles same =>
    have bank {x y : Option Side} (e : x.map Side.use = y.map Side.use) : x.map Side.bank = y.map Side.bank := by
      simpa [Option.map_map, Function.comp_def, Side.use] using congrArg (Option.map Prod.fst) e
    exact inv.sameSides rfl rfl rfl (fun h => congrArg _ (same h).staged) (fun h => (same h).stagedState)
      (fun h => congrArg _ (same h).retained) (fun h => bank (same h).use) rfl rfl rfl
  | endsStaged job rest h side m banks running handle staged written check ends =>
    obtain ⟨move, idle⟩ := ends.move staged
    have busy := inv.jobs.busy_of_job (running ▸ List.mem_cons_self) handle
    exact inv.stagedMove move rfl rfl (StagedState.ne_committing_of_busy busy)
      (inv.jobs.without (inv.jobs.rest_eq_filter running handle) move idle)
  | endsScrub job rest bank m sound running scrub =>
    have quarantined := inv.jobs.quarried job (running ▸ List.mem_cons_self) bank (by rw [scrub]; rfl)
    have record (h : Handle) : (s.banks.endScrub bank sound).record h = s.banks.record h := by cases sound <;> rfl
    exact ⟨inv.conserved.endScrub sound quarantined, fun h => by rw [record h]; exact inv.staged h,
      inv.jobs.scrubEnded sound running scrub rfl,
      inv.commit.keep rfl rfl (fun h hr => by rwa [record h] at hr) fun h hc => by rwa [record h]⟩
  | body c r _ effect => exact effect.bankInv inv

/-- Settles O5: every move keeps the four laws of the banks. -/
theorem bankLawsKept : Obligations.BankLawsKept := fun _ _ inv hstep =>
  law_kept (P := BankInv) (fun same h => h.congr same) (fun _ => .powerOn _) TableStep.bankInv inv hstep

end Moves

end Sys2Proof.Machine
end

section
/-! Reference integrity (R87) and frame coherence of the tables (R11): what each move does to active and retained sides. -/

namespace Sys2Proof.Machine

/-! ### Active and retained sides that stay -/

/-- Lookups find the same active sides after a move, and every retained side stays. -/
structure SidesKept (b b' : BankMap) : Prop where
  active   : ∀ h : Handle, (b'.record h).active.map Side.use = (b.record h).active.map Side.use
  retained : ∀ h : Handle, (b'.record h).retained.isSome = (b.record h).retained.isSome

section SidesKept

variable {b b' : BankMap}

theorem SidesKept.of_eq (h : b' = b) : SidesKept b b' := ⟨fun _ => by rw [h], fun _ => by rw [h]⟩

theorem SidesKept.active_isSome (kept : SidesKept b b') (h : Handle) :
    (b'.record h).active.isSome = (b.record h).active.isSome := by
  simpa using congrArg Option.isSome (kept.active h)

theorem StagedMove.sidesKept {h : Handle} (move : StagedMove b b' h) : SidesKept b b' := by
  refine ⟨fun h' => ?_, fun h' => ?_⟩
  · by_cases e : h' = h
    · exact e ▸ move.active
    · rw [move.others h' e]
  · by_cases e : h' = h
    · subst e; rw [move.retained]
    · rw [move.others h' e]

theorem SidesKept.modify {h : Handle} {f : HandleRecord → HandleRecord}
    (active : (f (b.record h)).active.map Side.use = (b.record h).active.map Side.use)
    (retained : (f (b.record h)).retained.isSome = (b.record h).retained.isSome) : SidesKept b (b.modify h f) := by
  refine ⟨fun h' => ?_, fun h' => ?_⟩
  · rw [BankMap.record_modify]; split
    · next e => rw [e]; exact active
    · rfl
  · rw [BankMap.record_modify]; split
    · next e => rw [e]; exact retained
    · rfl

theorem SidesKept.setStagedStates (b : BankMap) (set : HandleSet) (st : StagedState) :
    SidesKept b (b.setStagedStates set st) := by
  have record := (b.setStagedStates_spec set st).1
  exact ⟨fun h => by rw [record h]; split <;> rfl, fun h => by rw [record h]; split <;> rfl⟩

theorem SidesKept.endScrub (b : BankMap) (bank : Bank) (sound : Bool) : SidesKept b (b.endScrub bank sound) := by
  have record (h : Handle) : (b.endScrub bank sound).record h = b.record h := by cases sound <;> rfl
  exact ⟨fun h => by rw [record], fun h => by rw [record]⟩

theorem SidesKept.looksUp {handles : Vector HandleRecord 10}
    (same : ∀ h : Handle, (b.record h).SameButFaults handles[h.val]) : SidesKept b { b with handles := handles } :=
  ⟨fun h => (same h).use, fun h => congrArg _ (same h).retained⟩

theorem SidesKept.trans {b'' : BankMap} (a : SidesKept b b') (c : SidesKept b' b'') : SidesKept b b'' :=
  ⟨fun h => (c.active h).trans (a.active h), fun h => (c.retained h).trans (a.retained h)⟩

theorem SidesKept.releaseAllStaged (b : BankMap) : SidesKept b b.releaseAllStaged := by
  unfold BankMap.releaseAllStaged
  induction allHandles generalizing b with
  | nil => exact .of_eq rfl
  | cons h l ih =>
    refine .trans ?_ (ih _)
    dsimp only
    split
    · exact .of_eq rfl
    · exact (StagedMove.releaseStaged b h).sidesKept

theorem SidesKept.linkReset (s : State) : SidesKept s.banks s.linkReset.banks := by
  rw [linkReset_banks]
  exact .releaseAllStaged s.banks

theorem SidesKept.openFrom (s : State) (h : Handle) (mode : Byte) (c : CommandPacket) (bank : Bank) (rest : List Bank) :
    SidesKept s.banks (s.openFrom h mode c bank rest).banks := by
  refine ⟨fun h' => ?_, fun h' => ?_⟩
  · rw [State.record_openFrom]; split
    · next e => rw [e]
    · rfl
  · rw [State.record_openFrom]; split
    · next e => rw [e]
    · rfl

theorem SidesKept.markSide (b : BankMap) (h : Handle) (name : SideName) :
    SidesKept b (b.modify h fun r => r.markSide name) := by
  have marked (x : Option Side) : (x.map Side.withMark).map Side.use = x.map Side.use := by cases x <;> rfl
  refine .modify ?_ ?_ <;> cases name <;> simp [HandleRecord.markSide, marked]

end SidesKept

section Bodies

variable {c : CommandPacket} {s : State} {r : CommandResult}

/-- The bodies keep the active configuration, and all but two of them the sides: a confirm ends the retained sides, and
RELEASE_TABLE an active side that no configuration names. -/
theorem BodyEffect.sides (effect : BodyEffect c s r) : r.state.cfg.active = s.cfg.active ∧
    (SidesKept s.banks r.state.banks ∨ (s.commit.state = .guarding ∧ r.state = s.confirmCommit) ∨
      ∃ h, c.code = codeReleaseTable ∧ s.cfg.names h = false ∧ r.state = { s with banks := s.banks.releaseActive h }) := by
  cases effect with
  | acceptsCommit p => exact ⟨rfl, .inl (.setStagedStates s.banks _ _)⟩
  | cancelsCommit =>
    refine ⟨rfl, .inl ?_⟩
    cases hp : s.commit.pendingCommit with
    | none => exact .of_eq (by simp [CommandResult.state, State.cancelCommit, hp])
    | some p => simpa [CommandResult.state, State.cancelCommit, hp] using SidesKept.setStagedStates s.banks p.handles .loaded
  | confirmsCommit _ guarding =>
    exact ⟨by rw [CommandResult.state, confirmCommit_cfg], .inr (.inl ⟨guarding, rfl⟩)⟩
  | opens h mode bank rest =>
    exact ⟨rfl, .inl (.openFrom s h mode c bank rest)⟩
  | closes h =>
    have kept : SidesKept s.banks (s.closeFrom h c).banks := .modify (f := fun r => { r with stagedState := .checking }) rfl rfl
    exact ⟨rfl, .inl kept⟩
  | writes h side =>
    have kept : SidesKept s.banks (s.writeFrom h side.bank c).banks :=
      .modify (f := fun r => { r with nextSeq := (s.banks.record h).nextSeq + 1, writeAccepted := true }) rfl rfl
    exact ⟨rfl, .inl kept⟩
  | discardsWithJob h =>
    obtain ⟨banks, _, cfg, _⟩ := abortJobOf_giveUpStaged_blocks s h
    exact ⟨congrArg ConfigStore.active cfg, .inl (banks ▸ (StagedMove.releaseStaged s.banks h).sidesKept)⟩
  | discards h => exact ⟨rfl, .inl (StagedMove.releaseStaged s.banks h).sidesKept⟩
  | releases h _ code unnamed => exact ⟨rfl, .inr (.inr ⟨h, code, unnamed, rfl⟩)⟩
  | reads h name count faulty =>
    refine ⟨by simp [CommandResult.state, State.readFrom], .inl ?_⟩
    rw [CommandResult.state, readFrom_banks]
    split
    · exact .markSide s.banks h name
    · exact .of_eq rfl
  | _ => exact ⟨rfl, .inl (.of_eq rfl)⟩

end Bodies

/-! ### Reference integrity -/

section Integrity

variable {s t : State}

/-- Sides that stay keep reference integrity, when the configurations and the commit record stay too. -/
theorem ReferenceIntegrity.keep (refs : ReferenceIntegrity s) (sides : SidesKept s.banks t.banks) (active : t.cfg.active = s.cfg.active)
    (saved : t.cfg.saved = s.cfg.saved) (guardedSet : t.commit.guardedSet = s.commit.guardedSet)
    (future : ∀ p, t.commit.pendingCommit = some p → s.commit.pendingCommit = some p ∧
      t.futureConfig p.includeConfig = s.futureConfig p.includeConfig) : ReferenceIntegrity t where
  active h hn := by rw [sides.active_isSome]; exact refs.active h (active ▸ hn)
  saved c hc h hn := by rw [sides.active_isSome, sides.retained, guardedSet]; exact refs.saved c (saved ▸ hc) h hn
  future p hp h hn := by
    obtain ⟨before, same⟩ := future p hp
    rw [sides.active_isSome]
    exact refs.future p before h (same ▸ hn)

theorem ReferenceIntegrity.keepAll (refs : ReferenceIntegrity s) (sides : SidesKept s.banks t.banks) (cfg : t.cfg = s.cfg)
    (guardedSet : t.commit.guardedSet = s.commit.guardedSet)
    (pendingCommit : t.commit.pendingCommit = s.commit.pendingCommit) : ReferenceIntegrity t :=
  refs.keep sides (by rw [cfg]) (by rw [cfg]) guardedSet fun p hp => ⟨pendingCommit ▸ hp, by simp only [State.futureConfig, cfg]⟩

theorem ReferenceIntegrity.congr (refs : ReferenceIntegrity s) (same : SameTables s t) : ReferenceIntegrity t :=
  refs.keepAll (.of_eq same.banks) same.cfg same.guardedSet same.pendingCommit

theorem ReferenceIntegrity.powerOn (s : State) : ReferenceIntegrity s.powerOn :=
  have ⟨active, saved, future⟩ := referenceIntegrity_reset
  ⟨active, saved, future⟩

theorem ReferenceIntegrity.applyCommit (refs : ReferenceIntegrity s) (inv : BankInv s) {p : PendingCommit}
    (pending : s.commit.state = .pending) (hp : s.commit.pendingCommit = some p) : ReferenceIntegrity (s.applyCommit p) := by
  obtain ⟨set, saved, counter, retained⟩ := inv.commit.not_guarding (.inr pending)
  have record := (s.banks.applyCommit_spec p.handles (p.guardFrames != 0)).1
  have banks : (s.applyCommit p).banks = s.banks.applyCommit p.handles (p.guardFrames != 0) := rfl
  rw [← banks] at record
  refine ⟨fun h hn => ?_, fun c hc h hn => ?_, fun q hq => by simp [State.applyCommit, State.raise] at hq⟩
  · have future := refs.future p hp h hn
    rw [record h]
    split
    · next member => exact inv.staged_present (by rw [inv.commit.committing p hp h member]; simp)
    · next member => exact future.resolve_left member
  · cases under : p.guardFrames != 0 with
    | false => simp only [State.applyCommit, State.raise, under, saved] at hc; cases hc
    | true =>
      have old : s.cfg.active = c := by simpa only [State.applyCommit, State.raise, under, if_true, Option.some.injEq] using hc
      have present := refs.active h (old ▸ hn)
      have guarded : (s.applyCommit p).commit.guardedSet = some p.handles := by
        simp only [State.applyCommit, State.raise, under, if_true]
      rw [record h, guarded]
      split
      · left
        have some : (s.banks.record h).active ≠ none := Option.isSome_iff_ne_none.1 present
        rw [if_pos ⟨under, some⟩]; exact present
      · next member => exact .inr ⟨present, Bool.eq_false_iff.2 member⟩

theorem ReferenceIntegrity.applyRollback (refs : ReferenceIntegrity s) (inv : BankInv s)
    (waiting : s.commit.state = .rollbackPending) : ReferenceIntegrity s.applyRollback := by
  have record := (s.banks.rollback_spec (s.commit.guardedSet.getD 0)).1
  rw [← applyRollback_banks] at record
  have noCommit := inv.commit.pendingCommit_none (by simp [waiting])
  have guard : s.guardInProgress = true := by simp [State.guardInProgress, waiting]
  obtain ⟨c, hc⟩ := Option.isSome_iff_exists.1 (inv.commit.saved.trans guard)
  refine ⟨fun h hn => ?_, fun c' hc' => ?_, fun q hq => ?_⟩
  · rw [applyRollback_cfg, hc] at hn
    rw [record h]
    obtain kept | ⟨present, outside⟩ := refs.saved c hc h hn
    · rw [if_pos (by simp [kept])]; exact kept
    · split
      · next touched => simpa only [Bool.or_eq_true, outside, Bool.false_eq_true, or_false] using touched
      · exact present
  · rw [applyRollback_cfg] at hc'; cases hc'
  · rw [applyRollback_commit, noCommit] at hq; cases hq

theorem ReferenceIntegrity.confirmCommit (refs : ReferenceIntegrity s) (inv : BankInv s)
    (guarding : s.commit.state = .guarding) : ReferenceIntegrity s.confirmCommit := by
  have record := s.banks.confirm_spec.1
  rw [← confirmCommit_banks] at record
  have noCommit := inv.commit.pendingCommit_none (by simp [guarding])
  refine ⟨fun h hn => ?_, fun c hc => ?_, fun q hq => ?_⟩
  · rw [confirmCommit_cfg] at hn
    rw [record h]
    exact refs.active h hn
  · rw [confirmCommit_cfg] at hc; cases hc
  · rw [confirmCommit_commit, noCommit] at hq; cases hq

theorem ReferenceIntegrity.releases (refs : ReferenceIntegrity s) {h : Handle} (unnamed : s.cfg.names h = false) :
    ReferenceIntegrity { s with banks := s.banks.releaseActive h } := by
  have moved := s.banks.releaseActive_moved h
  obtain ⟨⟨active, staged⟩, saved⟩ : (s.cfg.active.names h = false ∧ s.cfg.staged.names h = false) ∧
      s.cfg.saved.any (fun saved => saved.names h) = false := by simpa only [ConfigStore.names, Bool.or_eq_false_iff] using unnamed
  have others {h' : Handle} (ne : h' ≠ h) : (s.banks.releaseActive h).record h' = s.banks.record h' :=
    (moved.record h').trans (if_neg ne)
  have named {cfg : Configuration} (off : cfg.names h = false) {h' : Handle} (on : cfg.names h' = true) : h' ≠ h := by
    rintro rfl; rw [off] at on; cases on
  refine ⟨fun h' hn => ?_, fun c hc h' hn => ?_, fun p hp h' hn => ?_⟩
  · dsimp only; rw [others (named active hn)]; exact refs.active h' hn
  · have off : c.names h = false := by simpa [show s.cfg.saved = some c from hc] using saved
    dsimp only; rw [others (named off hn)]; exact refs.saved c hc h' hn
  · have off : (s.futureConfig p.includeConfig).names h = false := by unfold State.futureConfig; split <;> assumption
    dsimp only; rw [others (named off hn)]; exact refs.future p hp h' hn

theorem ReferenceIntegrity.acceptCommit (refs : ReferenceIntegrity s) {p : PendingCommit}
    (bound : s.firstUnbound (s.futureConfig p.includeConfig) p.handles = none) : ReferenceIntegrity (s.acceptCommit p) := by
  have sides : SidesKept s.banks (s.acceptCommit p).banks := .setStagedStates s.banks _ _
  refine ⟨fun h hn => ?_, fun c hc h hn => ?_, fun q hq h hn => ?_⟩
  · rw [sides.active_isSome]; exact refs.active h hn
  · rw [sides.active_isSome, sides.retained]; exact refs.saved c hc h hn
  · obtain rfl := Option.some.inj hq
    have test := List.find?_eq_none.1 bound h (mem_allHandles h)
    have named : (s.futureConfig p.includeConfig).names h = true := hn
    rw [sides.active_isSome]
    cases active : (s.banks.record h).active with
    | none => left; simpa [named, active] using test
    | some side => exact .inr rfl

theorem BodyEffect.referenceIntegrity {c : CommandPacket} {r : CommandResult} (effect : BodyEffect c s r) (inv : BankInv s)
    (refs : ReferenceIntegrity s) : ReferenceIntegrity r.state := by
  obtain ⟨active, kept | ⟨guarding, confirmed⟩ | ⟨h, _, unnamed, released⟩⟩ := effect.sides
  · cases effect with
    | acceptsCommit p _ _ _ bound => exact refs.acceptCommit bound
    | cancelsCommit => exact refs.keep kept active rfl rfl fun p hp => nomatch hp
    | confirmsCommit _ guarding => exact refs.confirmCommit inv guarding
    | writesConfig staged _ thawed =>
      refine refs.keep kept active rfl rfl fun p hp => ⟨hp, ?_⟩
      have unfrozen : p.includeConfig = false := by
        have frozen := inv.commit.frozen
        rw [thawed, show s.commit.pendingCommit = some p from hp] at frozen
        exact frozen.symm
      rw [unfrozen]
      rfl
    | discardsWithJob h =>
      obtain ⟨_, _, cfg, commit⟩ := abortJobOf_giveUpStaged_blocks s h
      exact refs.keepAll kept cfg (congrArg _ commit) (congrArg _ commit)
    | reads h name count faulty =>
      have commit : (s.readFrom h name count faulty).commit = s.commit := by simp [State.readFrom]
      exact refs.keepAll kept (by simp [CommandResult.state, State.readFrom]) (congrArg _ commit) (congrArg _ commit)
    | _ => exact refs.keepAll kept rfl rfl rfl
  · rw [confirmed]; exact refs.confirmCommit inv guarding
  · rw [released]; exact refs.releases unnamed

theorem TableStep.referenceIntegrity {i : Instr} (move : TableStep i s t) (inv : BankInv s) (refs : ReferenceIntegrity s) :
    ReferenceIntegrity t := by
  cases move with
  | linkReset =>
    have commit := linkReset_commit s
    refine refs.keep (.linkReset s) (by rw [linkReset_cfg]) (by rw [linkReset_cfg]) ?_ fun p hp => ?_
    · rw [commit]; split <;> rfl
    · rw [commit] at hp
      split at hp
      · cases hp
      · next free => rw [inv.commit.pendingCommit_none free] at hp; cases hp
  | appliesCommit p _ pending record => exact refs.applyCommit inv pending record
  | appliesRollback _ waiting => exact refs.applyRollback inv waiting
  | confirms guarding => exact refs.confirmCommit inv guarding
  | counts => exact refs.keepAll (.of_eq rfl) rfl rfl rfl
  | requestsRollback => exact refs.keepAll (.of_eq rfl) rfl rfl rfl
  | looksUp handles same => exact refs.keepAll (.looksUp same) rfl rfl rfl
  | endsStaged job rest h side m banks running handle staged written check ends =>
    exact refs.keepAll (ends.move staged).1.sidesKept rfl rfl rfl
  | endsScrub job rest bank m sound => exact refs.keepAll (.endScrub s.banks bank sound) rfl rfl rfl
  | body c r _ effect => exact effect.referenceIntegrity inv refs

/-- Settles O6: every move keeps the two laws together. -/
theorem referenceIntegrityKept : Obligations.ReferenceIntegrityKept := fun _ _ inv refs hstep =>
  (law_kept (P := fun s => BankInv s ∧ ReferenceIntegrity s) (fun same h => ⟨h.1.congr same, h.2.congr same⟩)
    (fun _ => ⟨.powerOn _, .powerOn _⟩) (fun move h => ⟨move.bankInv h.1, move.referenceIntegrity h.1 h.2⟩)
    ⟨inv, refs⟩ hstep).2

end Integrity

end Sys2Proof.Machine
end

section
/-! The words a step writes (R36, R46, R50, R54, R58): never one of an active or retained side. -/

namespace Sys2Proof.Machine

/-- The bank may be written (R36): it is in the quarantine set, or the staged side of a handle in FILLING, COPYING or OPEN. -/
def BankMap.Writable (b : BankMap) (k : Bank) : Prop :=
  k ∈ b.quarantine ∨ ∃ (h : Handle) (side : Side), (b.record h).staged = some side ∧ side.bank = k ∧
    (b.record h).stagedState ∈ [StagedState.filling, .copying, .opened]

theorem at_writeRun_otherBank (m : Memory) {b b' : Bank} (hb : b' ≠ b) (start : Nat) (ts : List Triple) (i : Comp) :
    (writeRun m b start ts).at (wordAddr b' i) = m.at (wordAddr b' i) := by
  induction ts generalizing m start with
  | nil => rfl
  | cons t ts ih => exact (ih _ _).trans (at_writeWord_other _ _ (.inl hb))

section Writes

variable {s t : State}

/-- The running job writes a bank that may be written (R45, R48, R49, R54). -/
theorem BankInv.runningBank_writable (inv : BankInv s) {k : Bank} (running : s.runningBank = some k) : s.banks.Writable k := by
  unfold State.runningBank at running
  split at running
  · next h tag code rest jobs =>
    obtain ⟨side, staged, bank⟩ := Option.map_eq_some_iff.1 running
    have state := inv.jobs.states ⟨.fill h, tag, code⟩ (jobs ▸ List.mem_cons_self) h rfl
    exact .inr ⟨h, side, staged, bank, by simp [state, JobWork.stateOf]⟩
  · next h source keyCount tag code rest jobs =>
    obtain ⟨side, staged, bank⟩ := Option.map_eq_some_iff.1 running
    have state := inv.jobs.states ⟨.copy h source keyCount, tag, code⟩ (jobs ▸ List.mem_cons_self) h rfl
    exact .inr ⟨h, side, staged, bank, by simp [state, JobWork.stateOf]⟩
  · next bank tag code rest jobs =>
    obtain rfl := Option.some.inj running
    exact .inl (inv.jobs.quarried ⟨.scrub bank, tag, code⟩ (jobs ▸ List.mem_cons_self) bank rfl)
  · cases running

theorem BankInv.stopRunning_writes (inv : BankInv s) {k : Bank} {i : Comp}
    (changed : s.stopRunning.mem.at (wordAddr k i) ≠ s.mem.at (wordAddr k i)) : s.banks.Writable k := by
  by_contra safe
  exact changed (s.stopRunning_memory.2.2 k i fun running => safe (inv.runningBank_writable running))

theorem BodyEffect.writes_writable {c : CommandPacket} {r : CommandResult} (effect : BodyEffect c s r) (inv : BankInv s)
    {k : Bank} {i : Comp} (changed : r.state.mem.at (wordAddr k i) ≠ s.mem.at (wordAddr k i)) : s.banks.Writable k := by
  cases effect with
  | writes h side _ opened staged =>
    have bank : k = side.bank := by
      by_contra other
      exact changed (at_writeRun_otherBank s.mem other _ _ i)
    exact .inr ⟨h, side, staged, bank.symm, by simp [opened]⟩
  | discardsWithJob h =>
    obtain same | stopped := s.abortJobOf_mem h
    · exact absurd (congrArg (fun m => Memory.at m (wordAddr k i)) same) changed
    · exact inv.stopRunning_writes (stopped ▸ changed)
  | confirmsCommit => rw [CommandResult.state, State.confirmCommit_eq] at changed; exact absurd rfl changed
  | reads => simp [CommandResult.state, State.readFrom] at changed
  | _ => exact absurd rfl changed

theorem TableStep.writes_writable {row : Instr} (move : TableStep row s t) (inv : BankInv s) {k : Bank} {i : Comp}
    (changed : t.mem.at (wordAddr k i) ≠ s.mem.at (wordAddr k i)) : s.banks.Writable k := by
  cases move with
  | linkReset => exact inv.stopRunning_writes (s.linkReset_mem ▸ changed)
  | endsStaged job rest h side m banks running handle staged written check =>
    have bank : k = side.bank := by
      by_contra other
      exact changed (written.elsewhere k i other)
    have state := inv.jobs.states job (running ▸ List.mem_cons_self) h handle
    refine .inr ⟨h, side, staged, bank.symm, ?_⟩
    rw [state]
    obtain ⟨work, tag, code⟩ := job
    cases work with
    | fill => simp [JobWork.stateOf]
    | copy => simp [JobWork.stateOf]
    | check => exact absurd (congrArg (fun m => Memory.at m (wordAddr k i)) (check rfl)) changed
    | scrub => cases handle
  | endsScrub job rest bank m sound running scrub written =>
    have same : k = bank := by
      by_contra other
      exact changed (written.elsewhere k i other)
    exact .inl (same ▸ inv.jobs.quarried job (running ▸ List.mem_cons_self) bank (by rw [scrub]; rfl))
  | body c r _ effect => exact effect.writes_writable inv changed
  | confirms => rw [State.confirmCommit_eq] at changed; exact absurd rfl changed
  | appliesCommit p => rw [State.applyCommit_eq] at changed; exact absurd rfl changed
  | appliesRollback => rw [State.applyRollback_eq] at changed; exact absurd rfl changed
  | _ => exact absurd rfl changed

/-- Every word a step changes lies in a bank that may be written. -/
theorem step_writes_writable (inv : BankInv s) (h : step s = .next t) {k : Bank} {i : Comp}
    (changed : t.mem.at (wordAddr k i) ≠ s.mem.at (wordAddr k i)) : s.banks.Writable k := by
  obtain same | ⟨row, rest, _, ⟨_, rfl⟩ | ⟨a, b, before, moves, after⟩⟩ := step_tables h
  · rw [same.mem] at changed; exact absurd rfl changed
  · exact BankInv.stopRunning_writes (s := { s with pending := rest }) (inv.congr (.of_blocks rfl rfl rfl rfl rfl)) changed
  · have popped : SameTables s a :=
      SameTables.trans (t := { s with pending := rest }) (.of_blocks rfl rfl rfl rfl rfl) before
    obtain rfl | move := moves
    · rw [(popped.trans after).mem] at changed; exact absurd rfl changed
    · rw [after.mem, ← popped.mem] at changed
      exact popped.banks ▸ move.writes_writable (inv.congr popped) changed

end Writes

/-! ### Places of a bank (R29) -/

section Places

variable {b : BankMap} {h h' : Handle} {k : Bank}

theorem countSide_some (side : Side) : countSide side.bank (some side) = 1 := by simp [countSide]

/-- The banks that one handle holds stand in its record's part of the places. -/
theorem BankMap.Conserved.outside_lists (conserved : b.Conserved) (held : 1 ≤ (b.record h).bankList.count k) :
    k ∉ b.quarantine ∧ (b.record h).bankList.count k = 1 ∧ ∀ h', h' ≠ h → (b.record h').bankList.count k = 0 := by
  have one := conserved k
  rw [BankMap.count_places] at one
  have split := Finset.add_sum_erase Finset.univ (fun h' => (b.record h').bankList.count k) (Finset.mem_univ h)
  refine ⟨fun quarantined => ?_, by omega, fun h' ne => ?_⟩
  · have := List.count_pos_iff.2 quarantined
    omega
  · have := Finset.single_le_sum (f := fun h' => (b.record h').bankList.count k) (fun _ _ => Nat.zero_le _)
      (Finset.mem_erase.2 ⟨ne, Finset.mem_univ h'⟩)
    omega

/-- The bank of an active or retained side may not be written (R29, R36). -/
theorem BankMap.Conserved.not_writable (conserved : b.Conserved) {side : Side}
    (held : (b.record h).active = some side ∨ (b.record h).retained = some side) : ¬ b.Writable side.bank := by
  have counted : 1 ≤ countSide side.bank (b.record h).active + countSide side.bank (b.record h).retained := by
    obtain held | held := held <;> rw [held, countSide_some] <;> omega
  have list := (b.record h).count_bankList side.bank
  obtain ⟨unquarantined, once, others⟩ := conserved.outside_lists (h := h) (k := side.bank) (by omega)
  rintro (quarantined | ⟨h', staged, present, same, _⟩)
  · exact unquarantined quarantined
  · have here : 1 = countSide side.bank (b.record h').staged := by rw [present, ← same, countSide_some]
    by_cases e : h' = h
    · subst e; omega
    · have zero := others h' e
      rw [HandleRecord.count_bankList] at zero
      omega

end Places

/-- Settles O9: a changed word's bank may be written, and the bank of an active or retained side may not. -/
theorem activeBanksNeverWritten : Obligations.ActiveBanksNeverWritten := by
  refine fun s t inv hstep => ⟨fun h side held i => ?_, fun b i changed => step_writes_writable inv hstep changed⟩
  by_contra changed
  exact inv.conserved.not_writable held (step_writes_writable inv hstep changed)

end Sys2Proof.Machine
end

section
/-! Frame coherence (R11): what each event leaves of the mode, the active configuration and the active sides. -/

namespace Sys2Proof.Machine

/-! ### Ends of jobs -/

/-- The end of the running job: the job leaves the queue and is answered, BANK_FAULT is raised or no kind is; of the rest only
the table memory, the reads and the bank map change (R48 to R54). -/
def JobEnds (s u : State) : Prop :=
  ∃ (job : Job) (rest : List Job) (m : Memory) (n : Nat) (banks : BankMap) (fault : Bool) (status : Status)
    (payload : List Byte), s.jobs = job :: rest ∧
      u = (({ s with jobs := rest, mem := m, reads := n, banks := banks } : State).raiseIf fault .bankFault).reply
        job.tag job.code status payload

section JobEnds

variable {s u : State}

theorem endFill_jobEnds (h : endFill s = some u) : JobEnds s u := by
  unfold endFill at h
  split at h
  · next jobs =>
    obtain ⟨side, _, rfl⟩ := Option.map_eq_some_iff.1 h
    exact ⟨_, _, _, s.reads, _, false, _, _, jobs, by simp only [State.endJob, jobs]; rfl⟩
  · cases h

theorem endCopy_jobEnds (h : endCopy s = some u) : JobEnds s u := by
  unfold endCopy at h
  split at h
  · next jobs =>
    obtain ⟨side, _, rfl⟩ := Option.map_eq_some_iff.1 h
    dsimp only
    split
    · exact ⟨_, _, _, _, _, false, _, _, jobs, by simp only [State.endJob, jobs]; rfl⟩
    · exact ⟨_, _, _, _, _, true, _, _, jobs, by simp only [State.endJob, jobs]; rfl⟩
    · exact ⟨_, _, _, _, _, true, _, _, jobs, by simp only [State.endJob, jobs]; rfl⟩
  · cases h

theorem endCheck_jobEnds (h : endCheck s = some u) : JobEnds s u := by
  unfold endCheck at h
  split at h
  · next jobs =>
    obtain ⟨side, _, rfl⟩ := Option.map_eq_some_iff.1 h
    split
    · split
      · exact ⟨_, _, s.mem, _, _, false, _, _, jobs, by simp only [State.endJob, jobs]; rfl⟩
      · exact ⟨_, _, s.mem, _, _, false, _, _, jobs, by simp only [State.endJob, jobs]; rfl⟩
    · exact ⟨_, _, s.mem, _, _, true, _, _, jobs, by simp only [State.endJob, jobs]; rfl⟩
  · cases h

theorem endScrub_jobEnds (h : endScrub s = some u) : JobEnds s u := by
  unfold endScrub at h
  split at h
  · next jobs =>
    cases h
    dsimp only
    split
    · exact ⟨_, _, _, _, _, false, _, _, jobs, by simp only [State.endJob, jobs]; rfl⟩
    · exact ⟨_, _, _, _, _, true, _, _, jobs, by simp only [State.endJob, jobs]; rfl⟩
  · cases h

end JobEnds

/-! ### The mode (R9) -/

section Mode

variable {s u : State}

theorem frameLine_pix (s : State) (line : Half) (pixels : List Word) : (s.frameLine line pixels).pix = s.pix := by
  unfold State.frameLine
  dsimp only
  split
  · rw [State.afterLookups_eq]; rfl
  · rfl

theorem frameEnd_mode (s : State) (linesSent : Half) : (s.frameEnd linesSent).pix.mode = s.pix.mode := by
  unfold State.frameEnd
  rw [State.captureFrameEnd_eq]
  dsimp only
  split
  · rw [State.reportEvents_pix, State.evaluate_eq]; dsimp only; split <;> rfl
  · split <;> rfl

theorem offerCommand_pix (s : State) (c : CommandPacket) : (s.offerCommand c).pix = s.pix := by
  unfold State.offerCommand
  split <;> rfl

theorem linkReset_pix (s : State) : s.linkReset.pix = s.pix := by
  simp only [State.linkReset, State.linkResetCommit, State.linkResetReturn]
  rw [State.stopRunning_eq]
  dsimp only
  split <;> rfl

theorem takeGood_mode {p : ForwardPacket} (notFs : ∀ frame width height, p ≠ .fs frame width height) (s : State) :
    (takeGood p s).pix.mode = s.pix.mode := by
  cases p with
  | fs frame width height => exact absurd rfl (notFs frame width height)
  | ln line pixels => simp only [takeGood, takeLn]; split <;> simp [frameLine_pix]
  | fe linesSent => simp only [takeGood, takeFe]; split <;> simp [frameEnd_mode]
  | cm c => simp only [takeGood, takeCm]; split <;> split <;> simp [offerCommand_pix]
  | cr total => simp only [takeGood, takeCr]; split <;> simp
  | lr => simp [takeGood, takeLr, linkReset_pix]
  | fill => simp [takeGood, takeFill]

theorem breakFrameIf_pix (s : State) (readsLn : Bool) : (s.breakFrameIf readsLn).pix = s.pix := by
  unfold State.breakFrameIf
  split <;> rfl

theorem loseSignal_pix (s : State) : s.loseSignal.pix = s.pix := by
  unfold State.loseSignal
  rw [State.raise_pix]
  dsimp only
  split
  · rw [State.captureSignalLost_eq]; rfl
  · rfl

theorem linkErrorUnless_pix (s : State) (sound : Bool) : (s.linkErrorUnless sound).pix = s.pix := by cases sound <;> rfl

theorem takeReturn_pix (bytes : List Byte) (s : State) : (takeReturn bytes s).pix = s.pix := by
  unfold takeReturn
  split_ifs <;> simp [linkErrorUnless_pix]

theorem actOnOutcome_pix (s : State) (o : GuardOutcome) : (s.actOnOutcome o).pix = s.pix := by
  unfold State.actOnOutcome
  split
  · split
    · rw [State.confirmCommit_eq]
    · rfl
  · rfl
  · rfl
  · rfl

theorem endMessage_pix (h : endMessage s = some u) : u.pix = s.pix := by
  unfold endMessage at h
  split at h
  · cases h
  · split at h <;> cases h; rfl
  · split at h <;> cases h; rfl
  · cases h; rfl

theorem JobEnds.pix (h : JobEnds s u) : u.pix = s.pix := by
  obtain ⟨_, _, _, _, _, _, _, _, _, rfl⟩ := h
  simp

theorem BodyEffect.mode {c : CommandPacket} {r : CommandResult} (effect : BodyEffect c s r) :
    r.state.pix.mode = s.pix.mode := by
  cases effect with
  | confirmsCommit => rw [CommandResult.state, State.confirmCommit_eq]
  | discardsWithJob h => rw [CommandResult.state, State.giveUpStaged, s.abortJobOf_eq h]
  | reads => simp [CommandResult.state, State.readFrom]
  | _ => rfl

theorem finishCommand_pix (c : CommandPacket) (r : CommandResult) : (finishCommand c r).pix = r.state.pix := by
  cases r <;> rfl

/-- Only an FS changes the mode (R9, R11). -/
theorem Occurs.mode {i : Instr} (h : Occurs i s u) (wf : i.wellFormed = true)
    (notFs : ∀ frame width height, i ≠ .fs frame width height) : u.pix.mode = s.pix.mode := by
  cases h with
  | nothing => rfl
  | good p _ own =>
    refine takeGood_mode (fun frame width height e => ?_) s
    have packet := own wf
    rw [e] at packet
    cases i with
    | fs frame' width' height' => exact notFs _ _ _ rfl
    | _ => cases packet
  | malformed bytes => simp [takeMalformed, breakFrameIf_pix]
  | bad bytes => simp [takeBad, breakFrameIf_pix]
  | losesSignal => rw [loseSignal_pix]
  | takesReturn bytes => rw [takeReturn_pix]
  | takesOutcome o rest => rw [actOnOutcome_pix]
  | endsFill _ _ ends => rw [(endFill_jobEnds ends).pix]
  | endsCopy _ _ ends => rw [(endCopy_jobEnds ends).pix]
  | endsCheck _ _ ends => rw [(endCheck_jobEnds ends).pix]
  | endsScrub _ _ ends => rw [(endScrub_jobEnds ends).pix]
  | begins _ _ begins =>
    obtain ⟨_, hq⟩ := Option.ite_none_right_eq_some.1 begins
    obtain ⟨q, _, rfl⟩ := Option.map_eq_some_iff.1 hq
    rfl
  | sends _ _ ends => rw [endMessage_pix ends]
  | announces _ _ announces =>
    obtain ⟨_, hu⟩ := Option.ite_none_right_eq_some.1 announces
    cases hu
    rfl
  | heads c r _ _ _ _ effect => rw [finishCommand_pix, effect.mode, State.slotReserved_pix]
  | resumes c r _ _ _ effect => rw [finishCommand_pix, effect.mode]

end Mode

/-! ### The active sides -/

/-- What a row that starts no frame leaves of the active configuration and the active sides. -/
def ActiveKept (i : Instr) (s t : State) : Prop :=
  t.cfg.active = s.cfg.active ∧ ∀ h : Handle, (t.banks.record h).active.map Side.use = (s.banks.record h).active.map Side.use ∨
    (i = .releaseTable ∧ (t.banks.record h).active = none ∧ s.cfg.names h = false)

section Active

variable {s t : State} {i : Instr}

theorem ActiveKept.of_sides (cfg : t.cfg.active = s.cfg.active) (sides : SidesKept s.banks t.banks) : ActiveKept i s t :=
  ⟨cfg, fun h => .inl (sides.active h)⟩

theorem ActiveKept.of_tables (same : SameTables s t) : ActiveKept i s t := .of_sides (by rw [same.cfg]) (.of_eq same.banks)

theorem ActiveKept.confirmCommit (s : State) : ActiveKept i s s.confirmCommit := by
  refine ⟨by rw [confirmCommit_cfg], fun h => .inl ?_⟩
  rw [confirmCommit_banks, s.banks.confirm_spec.1]

/-- Only an FS applies a commit or a rollback (R11). -/
theorem TableStep.activeKept (move : TableStep i s t) (wf : i.wellFormed = true)
    (notFs : ∀ frame width height, i ≠ .fs frame width height) : ActiveKept i s t := by
  have noFrame (row : StartsFrame i) : False :=
    have ⟨frame, width, height, e⟩ := row wf
    notFs frame width height e
  cases move with
  | linkReset => exact .of_sides (by rw [linkReset_cfg]) (.linkReset s)
  | appliesCommit p row => exact (noFrame row).elim
  | appliesRollback row => exact (noFrame row).elim
  | confirms => exact .confirmCommit s
  | counts => exact .of_sides rfl (.of_eq rfl)
  | requestsRollback => exact .of_sides rfl (.of_eq rfl)
  | looksUp handles same => exact .of_sides rfl (.looksUp same)
  | endsStaged job rest h side m banks running handle staged written check ends =>
    exact .of_sides rfl (ends.move staged).1.sidesKept
  | endsScrub job rest bank m sound => exact .of_sides rfl (.endScrub s.banks bank sound)
  | body c r row effect =>
    obtain ⟨cfg, kept | ⟨_, confirmed⟩ | ⟨h, code, unnamed, released⟩⟩ := effect.sides
    · exact .of_sides cfg kept
    · rw [confirmed]; exact .confirmCommit s
    · refine ⟨cfg, fun h' => ?_⟩
      rw [released]
      dsimp only
      rw [(s.banks.releaseActive_moved h).record]
      by_cases e : h' = h
      · exact .inr ⟨row code, by rw [if_pos e], e ▸ unnamed⟩
      · exact .inl (by rw [if_neg e])

theorem Occurs.activeKept (h : Occurs i s t) (wf : i.wellFormed = true)
    (notFs : ∀ frame width height, i ≠ .fs frame width height) : ActiveKept i s t := by
  obtain ⟨a, b, before, move, after⟩ := h.tables
  have moved : ActiveKept i a b := by
    obtain rfl | move := move
    · exact .of_tables (.refl _)
    · exact move.activeKept wf notFs
  rw [ActiveKept, after.cfg, after.banks, ← before.cfg, ← before.banks]
  exact moved

theorem ConfigStore.names_false {cfg : ConfigStore} {h : Handle} (unnamed : cfg.names h = false) :
    cfg.active.names h = false ∧ cfg.staged.names h = false ∧ ∀ saved, cfg.saved = some saved → saved.names h = false := by
  obtain ⟨⟨active, staged⟩, saved⟩ : (cfg.active.names h = false ∧ cfg.staged.names h = false) ∧
      cfg.saved.any (fun saved => saved.names h) = false := by simpa only [ConfigStore.names, Bool.or_eq_false_iff] using unnamed
  exact ⟨active, staged, fun c hc => by simpa [hc] using saved⟩

end Active

/-- Settles O10: an FS in FRAME leaves the commit unit and the mode alone, and every other row keeps the mode and the active
sides. -/
theorem frameCoherence : Obligations.FrameCoherence := by
  intro s t c rest front wf hstep
  by_cases hpower : c = .powerOnReset
  · exact .inl hpower
  by_cases isFs : ∃ frame width height, c = .fs frame width height
  · obtain ⟨frame, width, height, rfl⟩ := isFs
    by_cases inFrame : s.rx.state = .frame
    · refine .inr (.inr ?_)
      rw [step_cons front rfl] at hstep
      cases held : s.resetHeld with
      | true =>
        obtain rfl | ⟨free, _⟩ := exec_occurs hpower nofun hstep
        · exact ⟨rfl, rfl, fun h => .inl rfl⟩
        · rw [show s.resetHeld = false from free] at held; cases held
      | false =>
        obtain ⟨t', ht', keeps, _⟩ := pendingModeAppliedAtBoundary { s with pending := rest } frame width height held wf
        obtain rfl := Host.Outcome.next.inj (ht'.symm.trans hstep)
        rw [exec_fs_good (s := { s with pending := rest }) held wf] at hstep
        obtain rfl := Host.Outcome.next.inj hstep
        have same := takeFs_overrun_sameForCommit (s := { s with pending := rest }) frame width height inFrame
        refine ⟨by rw [(keeps (.inl inFrame)).1], by rw [same.cfg], fun h => .inl (by rw [same.banks])⟩
    · exact .inr (.inl ⟨frame, width, height, rfl, inFrame⟩)
  · refine .inr (.inr ?_)
    have notFs (frame width height : Half) : c ≠ .fs frame width height := fun e => isFs ⟨frame, width, height, e⟩
    obtain rfl | ⟨c', rest', front', rfl | ⟨h, _⟩ | rfl | ⟨u, occurs, rfl⟩⟩ := step_cases hstep
    · exact ⟨rfl, rfl, fun h => .inl rfl⟩
    · exact ⟨rfl, rfl, fun h => .inl rfl⟩
    · obtain ⟨rfl, rfl⟩ := List.cons.inj (front.symm.trans front')
      exact absurd h hpower
    · exact ⟨rfl, rfl, fun h => .inl rfl⟩
    · obtain ⟨rfl, rfl⟩ := List.cons.inj (front.symm.trans front')
      obtain ⟨cfg, sides⟩ := occurs.activeKept wf notFs
      refine ⟨by rw [State.reportEvents_pix, occurs.mode wf notFs], by rw [State.reportEvents_cfg, cfg], fun h => ?_⟩
      rw [State.reportEvents_banks]
      exact (sides h).imp_right fun ⟨row, gone, unnamed⟩ => ⟨row, gone, ConfigStore.names_false unnamed⟩

end Sys2Proof.Machine
end

section
/-! The account of the reply slots (R138, R140, R150, R154): what each event leaves of the slots in use and of what holds them. -/

namespace Sys2Proof.Machine

/-- What holds reply slots, counted: jobs, a waiting head command, a capture, and the replies of an own queue (R150). -/
def slotCount (jobs : Nat) (waiting : Bool) (capture : Capture) (own : List OwnMessage) : Nat :=
  jobs + (if waiting then 1 else 0) + (if capture = .idle then 0 else 1) + own.countP fun m => !m.isEvent

/-- What holds the reply slots of the part (R150). -/
def State.slotHolders (s : State) : Nat := slotCount s.jobs.length s.cmd.waiting s.sig.capture s.ret.own

theorem State.slotHolders_eq (s : State) : s.slotHolders = s.commandsInProgress + s.repliesWaiting := rfl

section SlotCount

variable (jobs : Nat) (waiting : Bool) (capture : Capture) (own : List OwnMessage)

theorem slotCount_job : slotCount (jobs + 1) waiting capture own = slotCount jobs waiting capture own + 1 := by
  simp only [slotCount]; omega

theorem slotCount_waiting : slotCount jobs true capture own = slotCount jobs false capture own + 1 := by
  simp only [slotCount, if_true, Bool.false_eq_true, if_false]; omega

theorem slotCount_capture {capture : Capture} (busy : capture ≠ .idle) :
    slotCount jobs waiting capture own = slotCount jobs waiting .idle own + 1 := by
  simp only [slotCount, busy, if_true, if_false]; omega

theorem slotCount_reply (r : Reply) :
    slotCount jobs waiting capture (own ++ [.reply r]) = slotCount jobs waiting capture own + 1 := by
  simp only [slotCount, List.countP_append, List.countP_singleton, OwnMessage.isEvent]; rfl

theorem slotCount_event (e : EventMessage) :
    slotCount jobs waiting capture (own ++ [.event e]) = slotCount jobs waiting capture own := by
  simp only [slotCount, List.countP_append, List.countP_singleton, OwnMessage.isEvent]; rfl

theorem slotCount_front (msg : OwnMessage) (rest : List OwnMessage) : slotCount jobs waiting capture (msg :: rest) =
    slotCount jobs waiting capture rest + if msg.isEvent then 0 else 1 := by
  cases msg <;> simp [slotCount, OwnMessage.isEvent] <;> omega

theorem slotCount_capture_congr {capture capture' : Capture} (same : capture' = .idle ↔ capture = .idle) :
    slotCount jobs waiting capture' own = slotCount jobs waiting capture own := by
  simp only [slotCount, same]

end SlotCount

/-- An operation that leaves the slots in use and the number of their holders, and does not overfill the command queue. -/
structure SlotsKept (s t : State) : Prop where
  slots   : t.cmd.slots = s.cmd.slots
  holders : t.slotHolders = s.slotHolders
  queue   : s.cmd.queue.length ≤ Config.commandRoom → t.cmd.queue.length ≤ Config.commandRoom

section SlotsKept

variable {s t u : State}

theorem SlotsKept.refl (s : State) : SlotsKept s s := ⟨rfl, rfl, id⟩

theorem SlotsKept.trans (a : SlotsKept s t) (b : SlotsKept t u) : SlotsKept s u :=
  ⟨b.slots.trans a.slots, b.holders.trans a.holders, fun h => b.queue (a.queue h)⟩

theorem SlotLaw.keep (law : SlotLaw s) (kept : SlotsKept s t) : SlotLaw t :=
  ⟨kept.slots.trans (law.slots.trans kept.holders.symm), kept.slots ▸ law.bound, kept.queue law.queue⟩

theorem SlotsKept.of_parts (cmd : t.cmd = s.cmd) (jobs : t.jobs = s.jobs) (own : t.ret.own = s.ret.own)
    (capture : t.sig.capture = .idle ↔ s.sig.capture = .idle) : SlotsKept s t := by
  refine ⟨by rw [cmd], ?_, fun h => cmd ▸ h⟩
  rw [State.slotHolders, cmd, jobs, own, slotCount_capture_congr _ _ _ capture]
  rfl

theorem SlotsKept.of_eq (cmd : t.cmd = s.cmd) (jobs : t.jobs = s.jobs) (own : t.ret.own = s.ret.own)
    (sig : t.sig.capture = s.sig.capture) : SlotsKept s t := .of_parts cmd jobs own (by rw [sig])

/-- An EV takes no reply slot (R155). -/
theorem SlotsKept.reportEvents (s : State) : SlotsKept s s.reportEvents := by
  unfold State.reportEvents
  split
  · exact ⟨rfl, slotCount_event .., id⟩
  · exact .refl s

theorem SlotsKept.signalPresent (s : State) : SlotsKept s s.signalPresent :=
  .of_eq (by simp) (by simp) (by simp) (by simp)

theorem SlotsKept.forward (s : State) (bytes : List Byte) : SlotsKept s (s.forward bytes) := .of_eq rfl rfl rfl rfl

theorem SlotsKept.linkError (s : State) : SlotsKept s s.linkError := .of_eq rfl rfl rfl rfl

theorem SlotsKept.frameBroken (s : State) : SlotsKept s s.frameBroken := .of_eq rfl rfl rfl rfl

theorem SlotsKept.receiver (s : State) (rx : LaneReceiver) : SlotsKept s { s with rx := rx } := .of_eq rfl rfl rfl rfl

theorem SlotsKept.linkErrorUnless (s : State) (sound : Bool) : SlotsKept s (s.linkErrorUnless sound) := by
  cases sound
  · exact .linkError s
  · exact .refl s

theorem SlotsKept.breakFrameIf (s : State) (readsLn : Bool) : SlotsKept s (s.breakFrameIf readsLn) := by
  unfold State.breakFrameIf
  split
  · exact .receiver _ _
  · exact .refl s

/-- The answer of a capture takes over the capture's slot (R117, R150). -/
theorem SlotsKept.captureAnswered {r : CaptureRecord} {signature : Word} (running : s.sig.capture = .running r signature)
    (status : Status) (payload : List Byte) :
    SlotsKept s ({ s with sig := { s.sig with capture := .idle } }.reply r.tag r.code status payload) := by
  refine ⟨rfl, ?_, id⟩
  have busy : s.sig.capture ≠ .idle := by rw [running]; nofun
  exact (slotCount_reply ..).trans (slotCount_capture _ _ _ busy).symm

theorem SlotsKept.brokenAttempt {r : CaptureRecord} {signature : Word} (running : s.sig.capture = .running r signature)
    {again : CaptureRecord → Capture} (goesOn : ∀ r', again r' ≠ .idle) : SlotsKept s (s.brokenAttempt r again) := by
  unfold State.brokenAttempt
  split
  · exact .of_parts rfl rfl rfl (by simp [running, goesOn])
  · exact .captureAnswered running _ _

theorem SlotsKept.captureFrameEnd (s : State) (clean : Bool) : SlotsKept s (s.captureFrameEnd clean) := by
  unfold State.captureFrameEnd
  split
  · next running =>
    split
    · exact .captureAnswered running _ _
    · split
      · exact .captureAnswered running _ _
      · exact .brokenAttempt running nofun
  · exact .refl s

theorem SlotsKept.captureOverrun (s : State) : SlotsKept s s.captureOverrun := by
  unfold State.captureOverrun
  split
  · next running => exact .brokenAttempt running nofun
  · exact .refl s

theorem SlotsKept.captureSignalLost (s : State) : SlotsKept s s.captureSignalLost := by
  unfold State.captureSignalLost
  split
  · next running => exact .brokenAttempt running nofun
  · exact .refl s

theorem SlotsKept.signatureFrameStart (s : State) : SlotsKept s s.signatureFrameStart := by
  refine .of_parts rfl rfl rfl ?_
  rw [State.signatureFrameStart_eq]
  cases s.sig.capture <;> simp [Capture.startFrame]

theorem SlotsKept.applyPendingMode (s : State) : SlotsKept s s.applyPendingMode := by
  rw [State.applyPendingMode_eq]; exact .of_eq rfl rfl rfl rfl

theorem SlotsKept.commitBoundary (s : State) (f : Half) : SlotsKept s (s.commitBoundary f) := by
  have capture : (s.commitBoundary f).sig.capture = s.sig.capture := by
    obtain same | cleared := s.commitBoundary_sig f
    · rw [same]
    · rw [cleared]; rfl
  rw [State.commitBoundary_eq]
  exact .of_eq rfl rfl rfl capture

theorem SlotsKept.evaluate (s : State) : SlotsKept s s.evaluate := by
  rw [State.evaluate_eq]; exact .of_eq rfl rfl rfl rfl

theorem SlotsKept.frameBoundary (s : State) (frame width height : Half) :
    SlotsKept s (s.frameBoundary frame width height) := by
  unfold State.frameBoundary
  exact .trans (.receiver s _) <| .trans (.reportEvents _) <| .trans (.applyPendingMode _) <| .trans (.reportEvents _) <|
    .trans (.commitBoundary _ frame) <| .trans (.reportEvents _) (.signatureFrameStart _)

theorem SlotsKept.overrunStart (s : State) (frame width height : Half) :
    SlotsKept s (s.overrunStart frame width height) :=
  (SlotsKept.frameBroken s).trans <| (SlotsKept.captureOverrun _).trans <|
    (SlotsKept.receiver _ _).trans (.signatureFrameStart _)

theorem SlotsKept.frameEnd (s : State) (linesSent : Half) : SlotsKept s (s.frameEnd linesSent) := by
  unfold State.frameEnd
  refine .trans ?_ (.captureFrameEnd _ _)
  have counted : SlotsKept s (if s.rx.cleanAt linesSent then { s with rx := { s.rx with state := .blank } }
      else ({ s with rx := { s.rx with state := .blank } } : State).frameBroken) := by
    split
    · exact .receiver _ _
    · exact (SlotsKept.receiver s _).trans (.frameBroken _)
  dsimp only
  split
  · exact counted.trans ((SlotsKept.evaluate _).trans (.reportEvents _))
  · exact counted

theorem SlotsKept.loseSignal (s : State) : SlotsKept s s.loseSignal := by
  unfold State.loseSignal
  refine .trans (t := if s.rx.state = .frame then s.frameBroken.captureSignalLost else s) ?_ (.of_eq rfl rfl rfl rfl)
  split
  · exact (SlotsKept.frameBroken s).trans (.captureSignalLost _)
  · exact .refl s

theorem SlotsKept.afterLookups (s : State) (l : Lookup) : SlotsKept s (s.afterLookups l) := by
  cases found : l.firstFault with
  | none => rw [State.afterLookups_sound found]; exact .of_eq rfl rfl rfl rfl
  | some handles =>
    rw [State.afterLookups_faulty found]
    refine .trans (t := ({ s with reads := l.reads, banks := { s.banks with handles := handles } } : State).raise .bankFault)
      (.of_eq rfl rfl rfl rfl) ?_
    exact (SlotsKept.reportEvents _).trans (.of_eq rfl rfl rfl rfl)

theorem SlotsKept.frameLine (s : State) (line : Half) (pixels : List Word) : SlotsKept s (s.frameLine line pixels) := by
  have tapped (y : Nat) (input output : List Triple) (t : State) :
      (t.sig.tapLine t.cfg.active y input output).capture = .idle ↔ t.sig.capture = .idle := by
    cases capture : t.sig.capture <;> simp [SignatureUnit.tapLine, capture]
  unfold State.frameLine
  dsimp only
  split
  · refine .trans (.receiver s (s.rx.takeLine line pixels.length)) (.trans (.afterLookups _ (s.transformed line (pixels.map tripleOfWord)).2) ?_)
    refine .of_parts rfl rfl rfl ?_
    rw [State.afterLookups_eq]
    exact tapped _ _ _ s
  · exact .of_parts rfl rfl rfl (tapped _ _ _ s)

/-- A command joins a queue that has room, or is dropped (R139). -/
theorem SlotsKept.offerCommand (s : State) (c : CommandPacket) : SlotsKept s (s.offerCommand c) := by
  unfold State.offerCommand
  split
  · next room => exact ⟨rfl, rfl, fun _ => by simpa using room⟩
  · exact ⟨rfl, rfl, id⟩

/-- The answer of a job takes over the job's slot (R150). -/
theorem JobEnds.slotsKept (h : JobEnds s u) : SlotsKept s u := by
  obtain ⟨job, rest, m, n, banks, fault, status, payload, jobs, rfl⟩ := h
  refine ⟨by simp, ?_, fun hq => by simpa using hq⟩
  simp only [State.slotHolders, State.reply, State.raiseIf_jobs, State.raiseIf_cmd, State.raiseIf_sig, State.raiseIf_ret,
    jobs, List.length_cons, slotCount_reply, slotCount_job]

theorem SlotsKept.actOnOutcome (s : State) (o : GuardOutcome) : SlotsKept s (s.actOnOutcome o) := by
  unfold State.actOnOutcome
  split
  · split
    · rw [State.confirmCommit_eq]; exact .of_eq rfl rfl rfl rfl
    · exact .of_eq rfl rfl rfl rfl
  · exact .of_eq rfl rfl rfl rfl
  · exact .refl s
  · exact .refl s

theorem SlotsKept.takeReturn (bytes : List Byte) (s : State) : SlotsKept s (takeReturn bytes s) := by
  unfold Machine.takeReturn
  split
  · exact .linkErrorUnless _ _
  · split
    · exact .linkError s
    · refine .trans ?_ (.linkErrorUnless _ _)
      exact .of_eq rfl rfl rfl rfl

end SlotsKept

/-! ### The events -/

section Events

variable {s t u : State}

theorem linkReset_cmd (s : State) : s.linkReset.cmd = { s.cmd with queue := [], slots := 0, waiting := false } := by
  simp only [State.linkReset, State.linkResetCommit, State.linkResetReturn]
  rw [State.stopRunning_eq]
  dsimp only
  split <;> rfl

theorem linkReset_capture (s : State) : s.linkReset.sig.capture = .idle := by
  simp only [State.linkReset, State.linkResetCommit, State.linkResetReturn, SignatureUnit.linkReset]

theorem linkReset_own (s : State) : s.linkReset.ret.own = [] := rfl

theorem SlotLaw.linkReset (s : State) : SlotLaw s.linkReset := by
  have none : s.linkReset.slotHolders = 0 := by
    rw [State.slotHolders, linkReset_jobs, linkReset_cmd, linkReset_capture, linkReset_own]; rfl
  refine ⟨?_, ?_, ?_⟩
  · rw [← State.slotHolders_eq, none, linkReset_cmd]
  · rw [linkReset_cmd]; exact Nat.zero_le _
  · rw [linkReset_cmd]; exact Nat.zero_le _

theorem SlotLaw.takeGood {p : ForwardPacket} (law : SlotLaw s) : SlotLaw (takeGood p s) := by
  have seen := law.keep (.signalPresent s)
  cases p with
  | fs frame width height =>
    refine seen.keep (.trans ?_ (.forward _ _))
    split
    · exact .overrunStart _ _ _ _
    · exact .frameBoundary _ _ _ _
  | ln line pixels =>
    simp only [Machine.takeGood, takeLn]
    refine seen.keep ?_
    split
    · exact .frameLine _ _ _
    · exact (SlotsKept.receiver _ _).trans ((SlotsKept.linkError _).trans (.forward _ _))
    · exact .forward _ _
    · exact .forward _ _
  | fe linesSent =>
    simp only [Machine.takeGood, takeFe]
    refine seen.keep ?_
    split
    · exact (SlotsKept.frameEnd _ linesSent).trans (.of_eq rfl rfl rfl rfl)
    · exact .of_eq rfl rfl rfl rfl
    · exact .of_eq rfl rfl rfl rfl
    · exact .of_eq rfl rfl rfl rfl
  | cm c =>
    simp only [Machine.takeGood, takeCm]
    have offered : SlotsKept s.signalPresent (if s.offers c then s.signalPresent.offerCommand c else s.signalPresent) := by
      split
      · exact .offerCommand _ c
      · exact .refl _
    split
    · exact seen.keep (offered.trans (.forward _ _))
    · exact seen.keep offered
  | cr total =>
    simp only [Machine.takeGood, takeCr]
    split
    · exact seen.keep (.of_eq rfl rfl rfl rfl)
    · exact seen.keep (.linkError _)
  | lr => exact (SlotLaw.linkReset _).keep (.forward _ _)
  | fill => exact seen.keep (.forward _ _)

/-- A reply sent frees its slot (R138, R140). -/
theorem SlotLaw.endMessage (law : SlotLaw s) (h : endMessage s = some u) : SlotLaw u := by
  unfold Machine.endMessage at h
  split at h
  · cases h
  · split at h
    · cases h
    · next msg rest own =>
      cases h
      obtain ⟨slots, bound, queue⟩ := law
      have front := slotCount_front s.jobs.length s.cmd.waiting s.sig.capture msg rest
      rw [← own] at front
      cases msg with
      | reply r =>
        refine ⟨?_, (Nat.sub_le _ _).trans bound, queue⟩
        exact Nat.sub_eq_of_eq_add (slots.trans front)
      | event e => exact ⟨slots.trans front, bound, queue⟩
  · split at h <;> cases h
    exact law.keep (.of_eq rfl rfl rfl rfl)
  · cases h
    exact law.keep (.of_eq rfl rfl rfl rfl)

/-! ### The head command -/

/-- How many slot holders the body of a command at the head adds: one when it starts an operation (R144). -/
def CommandResult.started : CommandResult → Nat
  | .deferred _ => 1
  | _ => 0

/-- Exactly one job works on a busy handle (R45). -/
theorem JobLaw.length_without (law : JobLaw s) {h : Handle} (busy : (s.banks.record h).stagedState.Busy) :
    (s.jobs.filter fun job => !job.work.worksOn h).length + 1 = s.jobs.length := by
  obtain ⟨job, hj, handle⟩ := law.busy h busy
  obtain ⟨before, after, jobs⟩ := List.append_of_mem hj
  have distinct := law.handles
  rw [jobs, List.filterMap_append, List.filterMap_cons_some (f := fun j : Job => j.work.handle?) handle] at distinct
  obtain ⟨_, tail, apart⟩ := List.nodup_append.1 distinct
  have others (j : Job) (hj : j ∈ before ∨ j ∈ after) : (!j.work.worksOn h) = true := by
    rw [Bool.not_eq_true', Bool.eq_false_iff]
    intro works
    have same := (j.work.worksOn_iff h).1 works
    obtain hj | hj := hj
    · exact apart h (List.mem_filterMap.2 ⟨j, hj, same⟩) h List.mem_cons_self rfl
    · exact (List.nodup_cons.1 tail).1 (List.mem_filterMap.2 ⟨j, hj, same⟩)
  rw [jobs, List.filter_append, List.filter_cons_of_neg (by simp [(job.work.worksOn_iff h).2 handle]),
    List.filter_eq_self.2 fun j hj => others j (.inl hj), List.filter_eq_self.2 fun j hj => others j (.inr hj)]
  simp only [List.length_append, List.length_cons]
  omega

/-- The ABORTED reply of a dropped job takes over its slot (R61, R150). -/
theorem abortJobOf_slots (law : JobLaw s) {h : Handle} (busy : (s.banks.record h).stagedState.Busy) :
    (s.abortJobOf h).cmd = s.cmd ∧ (s.abortJobOf h).slotHolders = s.slotHolders := by
  refine ⟨by rw [s.abortJobOf_eq h], ?_⟩
  have length := law.length_without busy
  obtain ⟨job, hj, handle⟩ := law.busy h busy
  unfold State.abortJobOf
  split
  · next absent => exact absurd ((job.work.worksOn_iff h).2 handle) (by simpa using List.find?_eq_none.1 absent job hj)
  · rw [s.dropJobOf_eq h]
    simp only [State.slotHolders, State.reply, slotCount_reply]
    rw [← slotCount_job, length]

theorem BodyEffect.slots {c : CommandPacket} {r : CommandResult} (effect : BodyEffect c s r) (law : JobLaw s) :
    r.state.cmd = s.cmd ∧ r.state.slotHolders = s.slotHolders + r.started := by
  cases effect with
  | armsCapture _ idle =>
    refine ⟨rfl, ?_⟩
    have before : s.slotHolders = slotCount s.jobs.length s.cmd.waiting .idle s.ret.own := by rw [← idle]; rfl
    rw [before]
    exact slotCount_capture _ _ _ nofun
  | opens => exact ⟨rfl, (congrArg (slotCount · _ _ _) List.length_append).trans (slotCount_job ..)⟩
  | closes => exact ⟨rfl, (congrArg (slotCount · _ _ _) List.length_append).trans (slotCount_job ..)⟩
  | scrubs => exact ⟨rfl, (congrArg (slotCount · _ _ _) List.length_append).trans (slotCount_job ..)⟩
  | discardsWithJob h _ busy => exact abortJobOf_slots law busy
  | confirmsCommit => rw [CommandResult.state, State.confirmCommit_eq]; exact ⟨rfl, rfl⟩
  | reads =>
    exact ⟨by simp [CommandResult.state, State.readFrom], by
      simp [State.slotHolders, CommandResult.state, CommandResult.started, State.readFrom]⟩
  | _ => exact ⟨rfl, rfl⟩

/-- A command taken from the head, whose slot was reserved before or just now, ends or waits (R140, R142 to R144). -/
theorem finishCommand_slotLaw {c : CommandPacket} {r : CommandResult} (cmd : r.state.cmd = s.cmd)
    (holders : r.state.slotHolders = s.slotHolders + r.started) (bound : s.cmd.slots ≤ Config.replySlots)
    (queue : s.cmd.queue.length ≤ Config.commandRoom)
    (reserved : s.cmd.slots = slotCount s.jobs.length false s.sig.capture s.ret.own + 1) : SlotLaw (finishCommand c r) := by
  have tail : s.cmd.queue.tail.length ≤ Config.commandRoom := by rw [List.length_tail]; omega
  have ended (t : State) (e : t.cmd = s.cmd) (n : Nat) (h : t.slotHolders = s.slotHolders + n) :
      slotCount t.jobs.length false t.sig.capture t.ret.own =
        slotCount s.jobs.length false s.sig.capture s.ret.own + n := by
    rw [State.slotHolders, State.slotHolders, e] at h
    cases waiting : s.cmd.waiting <;> simp only [waiting, slotCount_waiting] at h <;> omega
  cases r with
  | reply status payload t =>
    have same : t.cmd = s.cmd := cmd
    refine ⟨?_, (congrArg (·.slots) same).trans_le bound, (congrArg (·.queue.tail.length) same).trans_le tail⟩
    have holders := congrArg (· + 1) (ended t same 0 holders).symm
    exact ((congrArg (·.slots) same).trans reserved).trans (holders.trans (slotCount_reply ..).symm)
  | deferred t =>
    have same : t.cmd = s.cmd := cmd
    exact ⟨((congrArg (·.slots) same).trans reserved).trans (ended t same 1 holders).symm,
      (congrArg (·.slots) same).trans_le bound, (congrArg (·.queue.tail.length) same).trans_le tail⟩
  | wait t =>
    have same : t.cmd = s.cmd := cmd
    refine ⟨?_, (congrArg (·.slots) same).trans_le bound, (congrArg (·.queue.length) same).trans_le queue⟩
    have holders := (congrArg (· + 1) (ended t same 0 holders).symm).trans (slotCount_waiting ..).symm
    exact ((congrArg (·.slots) same).trans reserved).trans holders

/-- Every event keeps the account of the slots. -/
theorem Occurs.slotLaw {i : Instr} (h : Occurs i s u) (jobs : JobLaw s) (law : SlotLaw s) : SlotLaw u := by
  cases h with
  | nothing => exact law
  | good p => exact law.takeGood
  | malformed bytes =>
    exact law.keep <| (SlotsKept.signalPresent s).trans <| (SlotsKept.breakFrameIf _ _).trans <|
      (SlotsKept.linkError _).trans (.forward _ _)
  | bad bytes => exact law.keep <| (SlotsKept.breakFrameIf _ _).trans <| (SlotsKept.linkError _).trans (.forward _ _)
  | losesSignal => exact law.keep (.loseSignal s)
  | takesReturn bytes => exact law.keep (.takeReturn bytes s)
  | takesOutcome o rest =>
    refine law.keep (.trans ?_ (.actOnOutcome _ o))
    exact .of_eq rfl rfl rfl rfl
  | endsFill _ _ ends => exact law.keep (endFill_jobEnds ends).slotsKept
  | endsCopy _ _ ends => exact law.keep (endCopy_jobEnds ends).slotsKept
  | endsCheck _ _ ends => exact law.keep (endCheck_jobEnds ends).slotsKept
  | endsScrub _ _ ends => exact law.keep (endScrub_jobEnds ends).slotsKept
  | begins _ _ begins =>
    obtain ⟨_, hq⟩ := Option.ite_none_right_eq_some.1 begins
    obtain ⟨q, _, rfl⟩ := Option.map_eq_some_iff.1 hq
    exact law.keep (.of_eq rfl rfl rfl rfl)
  | sends _ _ ends => exact law.endMessage ends
  | announces _ _ announces =>
    obtain ⟨_, hu⟩ := Option.ite_none_right_eq_some.1 announces
    cases hu
    exact law.keep (.of_eq rfl rfl rfl rfl)
  | heads c r _ _ fresh slot effect =>
    obtain ⟨cmd, holders⟩ := effect.slots (jobs.congr (t := s.slotReserved) rfl rfl)
    refine finishCommand_slotLaw cmd holders slot law.queue ?_
    have slots := law.slots
    rw [← State.slotHolders_eq, State.slotHolders, fresh] at slots
    exact congrArg (· + 1) slots
  | resumes c r _ _ waiting effect =>
    obtain ⟨cmd, holders⟩ := effect.slots jobs
    refine finishCommand_slotLaw cmd holders law.bound law.queue ?_
    rw [← slotCount_waiting, ← waiting]
    exact law.slots

end Events

/-- Settles O7: every event keeps the account, and queuing an EV takes no slot. -/
theorem replySlotLawKept : Obligations.ReplySlotLawKept := by
  intro s t inv law hstep
  have popped (rest : List Instr) : SlotLaw { s with pending := rest } := law.keep (.of_eq rfl rfl rfl rfl)
  obtain rfl | ⟨i, rest, _, rfl | ⟨_, rfl⟩ | rfl | ⟨u, occurs, rfl⟩⟩ := step_cases hstep
  · exact law
  · exact popped rest
  · exact ⟨slotLaw_reset.slots, slotLaw_reset.bound, slotLaw_reset.queue⟩
  · exact law.keep (.of_eq rfl rfl rfl rfl)
  · exact (occurs.slotLaw (inv.jobs.congr rfl rfl) (popped rest)).keep (.reportEvents u)

end Sys2Proof.Machine
end

section
/-! The credit law (R162, R164, R165) and the law of the event register (R155 to R157) under the events of a step. -/

namespace Sys2Proof.Machine

/-! ### Credit (R162, R164, R165) -/

/-- Of the return transmitter an operation changes the own queue alone, and takes no message from it. -/
def QueueGrows (s t : State) : Prop := t.ret = { s.ret with own := t.ret.own } ∧ s.ret.own <+: t.ret.own

section Credit

variable {s t u : State}

theorem QueueGrows.of_eq (ret : t.ret = s.ret) : QueueGrows s t := ⟨by rw [ret], ret ▸ List.prefix_refl _⟩

theorem QueueGrows.trans (a : QueueGrows s t) (b : QueueGrows t u) : QueueGrows s u :=
  ⟨by rw [b.1, a.1], a.2.trans b.2⟩

theorem FrameKeeps.queueGrows (kept : FrameKeeps s t) : QueueGrows s t := ⟨kept.ret, kept.own⟩

theorem QueueGrows.pass (grows : QueueGrows s t) : t.ret.pass = s.ret.pass := by rw [grows.1]

/-- The own queue alone is no part of the credit law, but for the message being sent, which stays at its front. -/
theorem CreditLaw.keep (law : CreditLaw s) (grows : QueueGrows s t) : CreditLaw t := by
  obtain ⟨ret, own⟩ := grows
  obtain ⟨down, up, sendingOwn, sendingPass⟩ := law
  refine ⟨?_, ?_, fun h => ?_, fun h => ?_⟩
  · rw [State.downRoom, ret]; exact down
  · rw [State.upCredits, ret]; exact up
  · rw [ret] at h
    obtain ⟨rest, longer⟩ := own
    rw [← longer]
    exact List.append_ne_nil_of_left_ne_nil (sendingOwn h) rest
  · rw [ret] at h ⊢; exact sendingPass h

theorem afterLookups_queueGrows (s : State) (l : Lookup) : QueueGrows s (s.afterLookups l) := by
  cases found : l.firstFault with
  | none => rw [State.afterLookups_sound found]; exact .of_eq rfl
  | some handles =>
    rw [State.afterLookups_faulty found]
    refine .trans (t := ({ s with reads := l.reads, banks := { s.banks with handles := handles } } : State).raise .bankFault)
      (.of_eq rfl) ?_
    exact QueueGrows.trans (FrameKeeps.reportEvents _).queueGrows (.of_eq rfl)

theorem frameLine_queueGrows (s : State) (line : Half) (pixels : List Word) : QueueGrows s (s.frameLine line pixels) := by
  unfold State.frameLine
  dsimp only
  split
  · refine .trans (t := { s with rx := s.rx.takeLine line pixels.length }) (.of_eq rfl) ?_
    exact QueueGrows.trans (afterLookups_queueGrows _ _) (.of_eq rfl)
  · exact .of_eq rfl

theorem JobEnds.queueGrows (h : JobEnds s u) : QueueGrows s u := by
  obtain ⟨job, rest, m, n, banks, fault, status, payload, _, rfl⟩ := h
  refine QueueGrows.trans ?_ (FrameKeeps.reply _ _ _ _ _).queueGrows
  exact .of_eq (by simp)

theorem linkErrorUnless_queueGrows (s : State) (sound : Bool) : QueueGrows s (s.linkErrorUnless sound) := by
  cases sound <;> exact .of_eq rfl

theorem breakFrameIf_queueGrows (s : State) (readsLn : Bool) : QueueGrows s (s.breakFrameIf readsLn) := by
  unfold State.breakFrameIf
  split <;> exact .of_eq rfl

theorem offerCommand_ret (s : State) (c : CommandPacket) : (s.offerCommand c).ret = s.ret := by
  unfold State.offerCommand
  split <;> rfl

theorem actOnOutcome_ret (s : State) (o : GuardOutcome) : (s.actOnOutcome o).ret = s.ret := by
  unfold State.actOnOutcome
  split
  · split
    · rw [State.confirmCommit_eq]
    · rfl
  · rfl
  · rfl
  · rfl

theorem abortJobOf_queueGrows (s : State) (h : Handle) : QueueGrows s (s.abortJobOf h) := by
  unfold State.abortJobOf
  split
  · exact .of_eq rfl
  · refine QueueGrows.trans ?_ (FrameKeeps.reply _ _ _ _ _).queueGrows
    exact .of_eq (by rw [s.dropJobOf_eq h])

theorem BodyEffect.queueGrows {c : CommandPacket} {r : CommandResult} (effect : BodyEffect c s r) : QueueGrows s r.state := by
  cases effect with
  | discardsWithJob h => exact abortJobOf_queueGrows s h
  | confirmsCommit => exact .of_eq (by rw [CommandResult.state, State.confirmCommit_eq])
  | reads => exact .of_eq (by simp [CommandResult.state, State.readFrom])
  | _ => exact .of_eq rfl

theorem finishCommand_queueGrows (c : CommandPacket) (r : CommandResult) : QueueGrows r.state (finishCommand c r) := by
  cases r with
  | reply status payload t => exact (FrameKeeps.reply t c.tag c.code status payload).queueGrows
  | _ => exact .of_eq rfl

theorem linkReset_ret (s : State) : s.linkReset.ret =
    { ReturnTransmitter.initial with sending := s.sendingBytes.map Sending.uncounted } := by
  simp only [State.linkReset, State.linkResetCommit, State.linkResetReturn]
  rw [State.stopRunning_eq]
  dsimp only
  split <;> rfl

theorem CreditLaw.initial {s : State} (ret : s.ret = { ReturnTransmitter.initial with sending := s.ret.sending })
    (sending : s.ret.sending ≠ some .own ∧ s.ret.sending ≠ some .pass) : CreditLaw s := by
  refine ⟨?_, ?_, fun h => absurd h sending.1, fun h => absurd h sending.2⟩
  · rw [State.downRoom, ret]; exact show 0 + ((16 : Byte) - 0).toNat = 16 by decide
  · rw [State.upCredits, ret]; exact show ((0 : Byte) - 0).toNat ≤ 16 by decide

theorem CreditLaw.linkReset (s : State) : CreditLaw s.linkReset := by
  refine .initial (by rw [linkReset_ret]) ?_
  rw [linkReset_ret]
  constructor <;> cases s.sendingBytes <;> nofun

/-- A CR that grants at most 16 beyond what was sent (R163, R164). -/
theorem CreditLaw.takeCr {total : Byte} (law : CreditLaw s) : CreditLaw (takeCr total s) := by
  have seen := law.keep (FrameKeeps.signalPresent s).queueGrows
  unfold Machine.takeCr
  dsimp only
  split
  · next granted =>
    obtain ⟨down, _, sending⟩ := seen
    refine ⟨down, ?_, sending⟩
    rw [State.upCredits]
    simpa using granted
  · exact seen.keep (.of_eq rfl)

/-- A message takes a place of the pass queue and one of the grant (R160, R162). -/
theorem CreditLaw.takeReturn {bytes : List Byte} (law : CreditLaw s) : CreditLaw (takeReturn bytes s) := by
  unfold Machine.takeReturn
  split
  · exact law.keep (linkErrorUnless_queueGrows _ _)
  · split
    · exact law.keep (.of_eq rfl)
    · next room =>
      refine CreditLaw.keep ?_ (linkErrorUnless_queueGrows _ _)
      obtain ⟨down, up, sendingOwn, sendingPass⟩ := law
      refine ⟨?_, up, sendingOwn, fun h => by simp⟩
      simp only [State.downRoom, List.length_append, List.length_singleton] at down room ⊢
      bv_omega

theorem CreditLaw.beginNext (law : CreditLaw s) (h : beginNext s = some u) : CreditLaw u := by
  obtain ⟨⟨_, credits⟩, hq⟩ := Option.ite_none_right_eq_some.1 h
  obtain ⟨q, next, rfl⟩ := Option.map_eq_some_iff.1 hq
  obtain ⟨down, up, _⟩ := law
  have front : (q = .own → s.ret.own ≠ []) ∧ (q = .pass → s.ret.pass ≠ []) := by
    unfold State.nextQueue at next
    split at next <;> cases next <;> simp_all
  refine ⟨down, ?_, ?_, ?_⟩
  · simp only [State.upCredits, State.beginMessage] at up credits ⊢
    bv_omega
  · cases q with
    | own => exact fun _ => front.1 rfl
    | pass => exact nofun
  · cases q with
    | own => exact nofun
    | pass => exact fun _ => front.2 rfl

theorem CreditLaw.endMessage (law : CreditLaw s) (h : endMessage s = some u) : CreditLaw u := by
  obtain ⟨down, up, _⟩ := law
  unfold Machine.endMessage at h
  split at h
  · cases h
  · split at h <;> cases h
    exact ⟨down, up, nofun, nofun⟩
  · split at h
    · cases h
    · next msg rest pass =>
      cases h
      refine ⟨?_, up, nofun, nofun⟩
      simp only [State.downRoom, pass, List.length_cons] at down ⊢
      bv_omega
  · cases h
    exact ⟨down, up, nofun, nofun⟩

/-- All good packets but a CR and an LR leave the return transmitter but for new messages in the own queue. -/
theorem takeGood_queueGrows {p : ForwardPacket} (notCr : ∀ total, p ≠ .cr total) (notLr : p ≠ .lr) (s : State) :
    QueueGrows s (takeGood p s) := by
  have seen := (FrameKeeps.signalPresent s).queueGrows
  cases p with
  | fs frame width height =>
    simp only [takeGood, takeFs]
    refine seen.trans (QueueGrows.trans ?_ (FrameKeeps.forward _ _).queueGrows)
    split
    · exact (FrameKeeps.overrunStart _ _ _ _).queueGrows
    · exact (FrameKeeps.frameBoundary _ _ _ _).queueGrows
  | ln line pixels =>
    simp only [takeGood, takeLn]
    refine seen.trans ?_
    split
    · exact frameLine_queueGrows _ _ _
    · exact .of_eq rfl
    · exact .of_eq rfl
    · exact .of_eq rfl
  | fe linesSent =>
    simp only [takeGood, takeFe]
    refine seen.trans ?_
    split
    · exact QueueGrows.trans (FrameKeeps.frameEnd _ linesSent).queueGrows (.of_eq rfl)
    · exact .of_eq rfl
    · exact .of_eq rfl
    · exact .of_eq rfl
  | cm c =>
    simp only [takeGood, takeCm]
    have offered : QueueGrows s.signalPresent (if s.offers c then s.signalPresent.offerCommand c else s.signalPresent) := by
      split
      · exact .of_eq (offerCommand_ret _ c)
      · exact .of_eq rfl
    split
    · exact seen.trans (offered.trans (FrameKeeps.forward _ _).queueGrows)
    · exact seen.trans offered
  | cr total => exact absurd rfl (notCr total)
  | lr => exact absurd rfl notLr
  | fill => exact seen.trans (FrameKeeps.forward _ _).queueGrows

theorem CreditLaw.takeGood {p : ForwardPacket} (law : CreditLaw s) : CreditLaw (takeGood p s) := by
  cases p with
  | cr total => exact law.takeCr
  | lr => exact (CreditLaw.linkReset _).keep (FrameKeeps.forward _ _).queueGrows
  | _ => exact law.keep (takeGood_queueGrows (by simp) (by simp) s)

theorem Occurs.creditLaw {i : Instr} (h : Occurs i s u) (law : CreditLaw s) : CreditLaw u := by
  cases h with
  | nothing => exact law
  | good p => exact law.takeGood
  | malformed bytes =>
    exact law.keep <| (FrameKeeps.signalPresent s).queueGrows.trans <| (breakFrameIf_queueGrows _ _).trans (.of_eq rfl)
  | bad bytes => exact law.keep <| (breakFrameIf_queueGrows s _).trans (.of_eq rfl)
  | losesSignal => exact law.keep (FrameKeeps.loseSignal s).queueGrows
  | takesReturn bytes => exact law.takeReturn
  | takesOutcome o rest => exact law.keep (.of_eq (actOnOutcome_ret _ o))
  | endsFill _ _ ends => exact law.keep (endFill_jobEnds ends).queueGrows
  | endsCopy _ _ ends => exact law.keep (endCopy_jobEnds ends).queueGrows
  | endsCheck _ _ ends => exact law.keep (endCheck_jobEnds ends).queueGrows
  | endsScrub _ _ ends => exact law.keep (endScrub_jobEnds ends).queueGrows
  | begins _ _ begins => exact law.beginNext begins
  | sends _ _ ends => exact law.endMessage ends
  | announces _ _ announces =>
    obtain ⟨_, hu⟩ := Option.ite_none_right_eq_some.1 announces
    cases hu
    exact law.keep (.of_eq rfl)
  | heads c r _ _ _ _ effect =>
    exact law.keep (QueueGrows.trans (t := s.slotReserved) (.of_eq rfl) (effect.queueGrows.trans (finishCommand_queueGrows c r)))
  | resumes c r _ _ _ effect => exact law.keep (effect.queueGrows.trans (finishCommand_queueGrows c r))

end Credit

/-! ### The event register (R155 to R157) -/

/-- A set of kinds within another, kind by kind. -/
theorem kinds_subset_iff {a b : BitVec 11} : a &&& ~~~b = 0 ↔ ∀ i, a.getLsbD i = true → b.getLsbD i = true := by
  constructor
  · intro h i hi
    have none := congrArg (·.getLsbD i) h
    by_contra hb
    have bound : i < 11 := BitVec.lt_of_getLsbD hi
    simp [hi, bound] at none
    exact hb (by rwa [BitVec.getLsbD_eq_getElem bound])
  · intro h
    apply BitVec.eq_of_getLsbD_eq
    intro i bound
    have within := h i
    cases ha : a.getLsbD i <;> simp_all

/-- The part of the law of the event register that every operation keeps: one EV at most, and only latched kinds reported. -/
structure EventsMarked (own : List OwnMessage) (events : EventRegister) : Prop where
  oneEvent : own.countP OwnMessage.isEvent ≤ 1
  reported : ∀ i, events.reported.getLsbD i = true → events.latched.getLsbD i = true

/-- The same of a state. -/
abbrev State.EventsMarked (s : State) : Prop := Machine.EventsMarked s.ret.own s.events

section EventsMarked

variable {s t u : State}

theorem EventLaw.marked (law : EventLaw s) : s.EventsMarked := ⟨law.oneEvent, kinds_subset_iff.1 law.reported⟩

theorem State.EventsMarked.law (marked : s.EventsMarked) (settled : s.eventDue = false) : EventLaw s :=
  ⟨marked.oneEvent, kinds_subset_iff.2 marked.reported, settled⟩

theorem EventsMarked.raise {own : List OwnMessage} {events : EventRegister} (law : EventsMarked own events) (k : EventKind) :
    EventsMarked own (events.raise k) :=
  ⟨law.oneEvent, fun i hi => by rw [EventRegister.raise_getLsbD, law.reported i hi]; rfl⟩

theorem EventsMarked.reply {own : List OwnMessage} {events : EventRegister} (law : EventsMarked own events) (r : Reply) :
    EventsMarked (own ++ [.reply r]) events :=
  ⟨by simpa [OwnMessage.isEvent] using law.oneEvent, law.reported⟩

theorem State.EventsMarked.raiseIf (law : s.EventsMarked) (cause : Bool) (k : EventKind) : (s.raiseIf cause k).EventsMarked := by
  cases cause
  · exact law
  · exact law.raise k

/-- An EV is queued only when none is, and with it every latched kind is reported (R155, R157). -/
theorem State.EventsMarked.reportEvents (law : s.EventsMarked) : s.reportEvents.EventsMarked := by
  unfold State.reportEvents
  split
  · next due =>
    have free : s.ret.own.countP OwnMessage.isEvent = 0 := by
      rw [State.eventDue, Bool.and_eq_true, Bool.not_eq_true', State.eventSlotTaken] at due
      simpa [List.countP_eq_zero] using due.2
    refine ⟨by simp [State.queueEvent, free, OwnMessage.isEvent], fun i hi => ?_⟩
    simp only [State.queueEvent, BitVec.getLsbD_or, Bool.or_eq_true] at hi ⊢
    exact hi.elim (law.reported i) id
  · exact law

theorem State.EventsMarked.signalPresent (law : s.EventsMarked) : s.signalPresent.EventsMarked := by
  unfold State.signalPresent
  split
  · exact Machine.EventsMarked.raise law _
  · exact law

theorem State.EventsMarked.linkError (law : s.EventsMarked) : s.linkError.EventsMarked :=
  Machine.EventsMarked.raise law _

theorem State.EventsMarked.frameBroken (law : s.EventsMarked) : s.frameBroken.EventsMarked :=
  Machine.EventsMarked.raise law _

theorem State.EventsMarked.forward (law : s.EventsMarked) (bytes : List Byte) : (s.forward bytes).EventsMarked :=
  law

theorem State.EventsMarked.linkErrorUnless (law : s.EventsMarked) (sound : Bool) : (s.linkErrorUnless sound).EventsMarked := by
  cases sound
  · exact law.linkError
  · exact law

theorem State.EventsMarked.breakFrameIf (law : s.EventsMarked) (readsLn : Bool) : (s.breakFrameIf readsLn).EventsMarked := by
  unfold State.breakFrameIf
  split <;> exact law

theorem State.EventsMarked.brokenAttempt (law : s.EventsMarked) (r : CaptureRecord) (again : CaptureRecord → Capture) :
    (s.brokenAttempt r again).EventsMarked := by
  unfold State.brokenAttempt
  split
  · exact law
  · exact Machine.EventsMarked.reply law _

theorem State.EventsMarked.captureOverrun (law : s.EventsMarked) : s.captureOverrun.EventsMarked := by
  unfold State.captureOverrun
  split
  · exact law.brokenAttempt _ _
  · exact law

theorem State.EventsMarked.captureSignalLost (law : s.EventsMarked) : s.captureSignalLost.EventsMarked := by
  unfold State.captureSignalLost
  split
  · exact law.brokenAttempt _ _
  · exact law

theorem State.EventsMarked.captureFrameEnd (law : s.EventsMarked) (clean : Bool) : (s.captureFrameEnd clean).EventsMarked := by
  unfold State.captureFrameEnd
  split
  · split
    · exact Machine.EventsMarked.reply law _
    · split
      · exact Machine.EventsMarked.reply law _
      · exact law.brokenAttempt _ _
  · exact law

theorem State.EventsMarked.applyPendingMode (law : s.EventsMarked) : s.applyPendingMode.EventsMarked := by
  unfold State.applyPendingMode
  split
  · exact law
  · refine State.EventsMarked.raiseIf ?_ _ _
    exact law

theorem State.EventsMarked.applyCommit (law : s.EventsMarked) (p : PendingCommit) : (s.applyCommit p).EventsMarked := by
  rw [State.applyCommit_eq]
  exact law.raise .commitApplied

theorem State.EventsMarked.applyRollback (law : s.EventsMarked) : s.applyRollback.EventsMarked := by
  rw [State.applyRollback_eq]
  exact law.raise .rolledBack

theorem State.EventsMarked.confirmCommit (law : s.EventsMarked) : s.confirmCommit.EventsMarked := by
  rw [State.confirmCommit_eq]
  exact law.raise .commitConfirmed

theorem State.EventsMarked.commitBoundary (law : s.EventsMarked) (f : Half) : (s.commitBoundary f).EventsMarked := by
  unfold State.commitBoundary
  split
  · exact law
  · exact law
  · exact law.applyRollback
  · split
    · exact law
    · split
      · exact law.applyCommit _
      · exact law

theorem State.EventsMarked.evaluate (law : s.EventsMarked) : s.evaluate.EventsMarked := by
  unfold State.evaluate
  refine State.EventsMarked.raiseIf ?_ _ _
  exact law

theorem State.EventsMarked.frameBoundary (law : s.EventsMarked) (frame width height : Half) :
    (s.frameBoundary frame width height).EventsMarked := by
  have recorded : State.EventsMarked { s with rx := { s.rx with
    state := .frame, boundarySeen := true, lastFrame := frame, lastBoundary := frame, width := width,
    height := height, linesTaken := 0, broken := false } } := law
  exact (recorded.reportEvents.applyPendingMode.reportEvents.commitBoundary frame).reportEvents

theorem State.EventsMarked.overrunStart (law : s.EventsMarked) (frame width height : Half) :
    (s.overrunStart frame width height).EventsMarked := law.frameBroken.captureOverrun

theorem State.EventsMarked.frameEnd (law : s.EventsMarked) (linesSent : Half) : (s.frameEnd linesSent).EventsMarked := by
  have blank : State.EventsMarked { s with rx := { s.rx with state := .blank } } := law
  have counted : (if s.rx.cleanAt linesSent then { s with rx := { s.rx with state := .blank } }
      else ({ s with rx := { s.rx with state := .blank } } : State).frameBroken).EventsMarked := by
    split
    · exact blank
    · exact blank.frameBroken
  unfold State.frameEnd
  refine State.EventsMarked.captureFrameEnd ?_ _
  dsimp only
  split
  · exact counted.evaluate.reportEvents
  · exact counted

theorem State.EventsMarked.loseSignal (law : s.EventsMarked) : s.loseSignal.EventsMarked := by
  have ended : (if s.rx.state = .frame then s.frameBroken.captureSignalLost else s).EventsMarked := by
    split
    · exact law.frameBroken.captureSignalLost
    · exact law
  exact ended.raise .signalLost

theorem State.EventsMarked.afterLookups (law : s.EventsMarked) (l : Lookup) : (s.afterLookups l).EventsMarked := by
  cases found : l.firstFault with
  | none => rw [State.afterLookups_sound found]; exact law
  | some handles =>
    rw [State.afterLookups_faulty found]
    have marked : (({ s with reads := l.reads, banks := { s.banks with handles := handles } } : State).raise
        .bankFault).EventsMarked := law.raise .bankFault
    exact marked.reportEvents

theorem State.EventsMarked.frameLine (law : s.EventsMarked) (line : Half) (pixels : List Word) :
    (s.frameLine line pixels).EventsMarked := by
  have taken : State.EventsMarked { s with rx := s.rx.takeLine line pixels.length } := law
  unfold State.frameLine
  dsimp only
  split
  · exact taken.afterLookups _
  · exact law

theorem State.EventsMarked.offerCommand (law : s.EventsMarked) (c : CommandPacket) : (s.offerCommand c).EventsMarked := by
  unfold State.offerCommand
  split
  · exact law
  · exact Machine.EventsMarked.raise law _

theorem State.EventsMarked.linkReset (s : State) : s.linkReset.EventsMarked :=
  ⟨Nat.zero_le _, fun i hi => by
    have none : s.linkReset.events.reported = 0 := rfl
    rw [none] at hi
    simp at hi⟩

theorem State.EventsMarked.takeGood (law : s.EventsMarked) (p : ForwardPacket) : (takeGood p s).EventsMarked := by
  have seen := law.signalPresent
  cases p with
  | fs frame width height =>
    simp only [Machine.takeGood, takeFs]
    refine State.EventsMarked.forward ?_ _
    split
    · exact seen.overrunStart _ _ _
    · exact seen.frameBoundary _ _ _
  | ln line pixels =>
    simp only [Machine.takeGood, takeLn]
    split
    · exact seen.frameLine _ _
    · exact Machine.EventsMarked.raise seen _
    · exact seen.forward _
    · exact seen.forward _
  | fe linesSent =>
    simp only [Machine.takeGood, takeFe]
    split
    · exact seen.frameEnd linesSent
    · exact Machine.EventsMarked.raise seen _
    · exact seen
    · exact seen
  | cm c =>
    simp only [Machine.takeGood, takeCm]
    have offered : (if s.offers c then s.signalPresent.offerCommand c else s.signalPresent).EventsMarked := by
      split
      · exact seen.offerCommand c
      · exact seen
    split
    · exact offered.forward _
    · exact offered
  | cr total =>
    simp only [Machine.takeGood, takeCr]
    split
    · exact seen
    · exact seen.linkError
  | lr => exact (State.EventsMarked.linkReset _).forward _
  | fill => exact seen.forward _

theorem JobEnds.eventsMarked (h : JobEnds s u) (law : s.EventsMarked) : u.EventsMarked := by
  obtain ⟨job, rest, m, n, banks, fault, status, payload, _, rfl⟩ := h
  refine Machine.EventsMarked.reply (State.EventsMarked.raiseIf ?_ _ _) _
  exact law

theorem State.EventsMarked.actOnOutcome (law : s.EventsMarked) (o : GuardOutcome) : (s.actOnOutcome o).EventsMarked := by
  unfold State.actOnOutcome
  split
  · split
    · exact law.confirmCommit
    · exact law
  · exact law
  · exact law
  · exact law

theorem State.EventsMarked.takeReturn (law : s.EventsMarked) (bytes : List Byte) : (takeReturn bytes s).EventsMarked := by
  unfold Machine.takeReturn
  split
  · exact law.linkErrorUnless _
  · split
    · exact law.linkError
    · refine State.EventsMarked.linkErrorUnless ?_ _
      exact law

theorem State.EventsMarked.endMessage (law : s.EventsMarked) (h : endMessage s = some u) : u.EventsMarked := by
  unfold Machine.endMessage at h
  split at h
  · cases h
  · split at h
    · cases h
    · next msg rest own =>
      cases h
      refine ⟨le_trans ?_ law.oneEvent, law.reported⟩
      rw [own]
      exact List.Sublist.countP_le (List.sublist_cons_self msg rest)
  · split at h <;> cases h
    exact law
  · cases h
    exact law

theorem BodyEffect.eventsMarked {c : CommandPacket} {r : CommandResult} (effect : BodyEffect c s r) (law : s.EventsMarked) :
    r.state.EventsMarked := by
  cases effect with
  | acknowledges kinds =>
    refine ⟨law.oneEvent, fun i hi => ?_⟩
    simp only [CommandResult.state, EventRegister.acknowledge, BitVec.getLsbD_and, Bool.and_eq_true] at hi ⊢
    exact ⟨law.reported i hi.1, hi.2⟩
  | setsMask => exact ⟨law.oneEvent, law.reported⟩
  | confirmsCommit => exact law.confirmCommit
  | discardsWithJob h =>
    have aborted : (s.abortJobOf h).EventsMarked := by
      unfold State.abortJobOf
      split
      · exact law
      · rw [s.dropJobOf_eq h]; exact Machine.EventsMarked.reply law _
    exact aborted
  | reads =>
    refine State.EventsMarked.raiseIf ?_ _ _
    exact law
  | _ => exact law

theorem State.EventsMarked.finishCommand {c : CommandPacket} {r : CommandResult} (law : r.state.EventsMarked) :
    (finishCommand c r).EventsMarked := by
  cases r with
  | reply status payload t => exact Machine.EventsMarked.reply (own := t.ret.own) law _
  | deferred t => exact law
  | wait t => exact law

theorem Occurs.eventsMarked {i : Instr} (h : Occurs i s u) (law : s.EventsMarked) : u.EventsMarked := by
  cases h with
  | nothing => exact law
  | good p => exact law.takeGood p
  | malformed bytes => exact ((law.signalPresent.breakFrameIf _).linkError).forward _
  | bad bytes => exact ((law.breakFrameIf _).linkError).forward _
  | losesSignal => exact law.loseSignal
  | takesReturn bytes => exact law.takeReturn bytes
  | takesOutcome o rest =>
    refine State.EventsMarked.actOnOutcome ?_ o
    exact law
  | endsFill _ _ ends => exact (endFill_jobEnds ends).eventsMarked law
  | endsCopy _ _ ends => exact (endCopy_jobEnds ends).eventsMarked law
  | endsCheck _ _ ends => exact (endCheck_jobEnds ends).eventsMarked law
  | endsScrub _ _ ends => exact (endScrub_jobEnds ends).eventsMarked law
  | begins _ _ begins =>
    obtain ⟨_, hq⟩ := Option.ite_none_right_eq_some.1 begins
    obtain ⟨q, _, rfl⟩ := Option.map_eq_some_iff.1 hq
    exact law
  | sends _ _ ends => exact law.endMessage ends
  | announces _ _ announces =>
    obtain ⟨_, hu⟩ := Option.ite_none_right_eq_some.1 announces
    cases hu
    exact law
  | heads c r _ _ _ _ effect => exact (effect.eventsMarked (law)).finishCommand
  | resumes c r _ _ _ effect => exact (effect.eventsMarked law).finishCommand

end EventsMarked

end Sys2Proof.Machine
end

section
/-! The ranges of the lane receiver and of the address (R120, R132, R133, R168) under the events of a step, and with them the
laws of the link. -/

namespace Sys2Proof.Machine

/-! ### The receiver after each operation of a frame (R125 to R128, R132, R137) -/

theorem frameBoundary_rx (s : State) (frame width height : Half) : (s.frameBoundary frame width height).rx =
    { s.rx with
      state := .frame, boundarySeen := true, lastFrame := frame, lastBoundary := frame, width := width,
      height := height, linesTaken := 0, broken := false } := by
  simp only [State.frameBoundary, State.signatureFrameStart, State.reportEvents_rx]
  rw [State.commitBoundary_eq]
  simp only [State.reportEvents_rx]
  rw [State.applyPendingMode_eq]
  simp only [State.reportEvents_rx]

theorem overrunStart_rx (s : State) (frame width height : Half) : (s.overrunStart frame width height).rx =
    { s.rx with
      lastFrame := frame, width := width, height := height, linesTaken := 0, broken := false,
      brokenFrames := saturate16 s.rx.brokenFrames } := by
  simp only [State.overrunStart, State.signatureFrameStart]
  rw [State.captureOverrun_eq]
  rfl

theorem frameEnd_rx (s : State) (linesSent : Half) : (s.frameEnd linesSent).rx =
    { s.rx with
      state := .blank,
      brokenFrames := if s.rx.cleanAt linesSent then s.rx.brokenFrames else saturate16 s.rx.brokenFrames } := by
  unfold State.frameEnd
  rw [State.captureFrameEnd_eq]
  dsimp only
  cases clean : s.rx.cleanAt linesSent with
  | false => simp only [Bool.false_eq_true, false_and, if_false]; rfl
  | true =>
    simp only [true_and, if_true]
    split
    · rw [State.reportEvents_rx, State.evaluate_eq]
    · rfl

theorem loseSignal_rx (s : State) : s.loseSignal.rx =
    { s.rx with
      state := .noSignal, timer := none,
      brokenFrames := if s.rx.state = .frame then saturate16 s.rx.brokenFrames else s.rx.brokenFrames } := by
  unfold State.loseSignal
  rw [State.raise_rx]
  dsimp only
  split
  · rw [State.captureSignalLost_eq]; rfl
  · rfl

theorem linkReset_rx (s : State) : s.linkReset.rx =
    { s.rx with
      state := .hunt,
      brokenFrames := if s.rx.state = .frame then saturate16 s.rx.brokenFrames else s.rx.brokenFrames } := by
  simp only [State.linkReset, State.linkResetCommit, State.linkResetReturn]
  rw [State.stopRunning_eq]
  dsimp only
  split <;> rfl

theorem frameLine_rx (s : State) (line : Half) (pixels : List Word) :
    (s.frameLine line pixels).rx = s.rx.takeLine line pixels.length := by
  unfold State.frameLine
  dsimp only
  split
  · rw [State.afterLookups_eq]; rfl
  · rfl

/-- A capture attempt that fails goes on as it is told, or the capture ends (R117, R118). -/
theorem State.brokenAttempt_capture (s : State) (r : CaptureRecord) (again : CaptureRecord → Capture) :
    (∃ r', (s.brokenAttempt r again).sig.capture = again r') ∨ (s.brokenAttempt r again).sig.capture = .idle := by
  unfold State.brokenAttempt
  split
  · exact .inl ⟨_, rfl⟩
  · exact .inr rfl

theorem State.brokenAttempt_armed (s : State) (r r' : CaptureRecord) (sig : Word) :
    (s.brokenAttempt r .armed).sig.capture ≠ .running r' sig := by
  obtain ⟨_, e⟩ | e := s.brokenAttempt_capture r .armed <;> rw [e] <;> nofun

/-- No capture runs on after the end of a frame (R117). -/
theorem State.captureFrameEnd_stops (s : State) (clean : Bool) (r : CaptureRecord) (sig : Word) :
    (s.captureFrameEnd clean).sig.capture ≠ .running r sig := by
  unfold State.captureFrameEnd
  split
  · split
    · exact nofun
    · split
      · exact nofun
      · exact s.brokenAttempt_armed _ _ _
  · next other => exact other r sig

/-- No capture runs on after the loss of the signal (R118). -/
theorem State.captureSignalLost_stops (s : State) (r : CaptureRecord) (sig : Word) :
    s.captureSignalLost.sig.capture ≠ .running r sig := by
  unfold State.captureSignalLost
  split
  · exact s.brokenAttempt_armed _ _ _
  · next other => exact other r sig

/-! ### The law -/

section Receiver

variable {s t u : State}

/-- The counts and the mark of a broken frame are in no range. -/
theorem ReceiverLaw.sameSignal (law : ReceiverLaw s)
    (rx : t.rx = { s.rx with
      broken := t.rx.broken, linkErrors := t.rx.linkErrors, brokenFrames := t.rx.brokenFrames })
    (capture : t.sig.capture = s.sig.capture) (address : t.address = s.address) : ReceiverLaw t := by
  obtain ⟨timer, setting, size, lines, unknown, running, given⟩ := law
  refine ⟨?_, ?_, ?_, ?_, ?_, fun r sig h => ?_, address ▸ given⟩
  · rw [rx]; exact timer
  · rw [rx]; exact setting
  · rw [rx]; exact size
  · rw [rx]; exact lines
  · rw [rx]; exact unknown
  · rw [rx]; exact running r sig (capture ▸ h)

theorem ReceiverLaw.keep (law : ReceiverLaw s) (rx : t.rx = s.rx) (capture : t.sig.capture = s.sig.capture)
    (address : t.address = s.address) : ReceiverLaw t := law.sameSignal (by rw [rx]) capture address

theorem LaneReceiver.seen_timer (r : LaneReceiver) : r.seen.timer = some r.setting := rfl

/-- A good or malformed packet starts the timer with the setting (R132). -/
theorem ReceiverLaw.signalPresent (law : ReceiverLaw s) : ReceiverLaw s.signalPresent := by
  obtain ⟨_, setting, size, lines, unknown, running, given⟩ := law
  have shown : s.rx.seen.state ≠ .noSignal := by simp only [LaneReceiver.seen]; split <;> simp_all
  refine ⟨?_, ?_, fun h => ?_, ?_, ?_, fun r sig h => ?_, by simpa using given⟩
  · rw [State.signalPresent_rx, LaneReceiver.seen_timer, decide_eq_false shown]; rfl
  · rw [State.signalPresent_rx]
    exact ⟨setting.1, fun e => setting.1 (Option.some.inj e)⟩
  · rw [State.signalPresent_rx] at h ⊢
    exact size ((LaneReceiver.seen_state_frame_iff _).1 h)
  · rw [State.signalPresent_rx]; exact lines
  · rw [State.signalPresent_rx]; exact unknown
  · rw [State.signalPresent_sig] at h
    rw [State.signalPresent_rx]
    exact (LaneReceiver.seen_state_frame_iff _).2 (running r sig h)

theorem State.signalPresent_present (s : State) : s.signalPresent.rx.state ≠ .noSignal := by
  rw [State.signalPresent_rx, LaneReceiver.seen]
  dsimp only
  split <;> simp_all

/-- A frame begins, at a boundary or not, with a size in range (R125, R126). -/
theorem ReceiverLaw.frameStart (law : ReceiverLaw s) {frame width height last : Half} {count : Half}
    (inRange : fieldsInRange (.fs frame width height) = true) (signal : s.rx.state ≠ .noSignal)
    (rx : t.rx = { s.rx with
      state := .frame, boundarySeen := true, lastFrame := frame, lastBoundary := last, width := width,
      height := height, linesTaken := 0, broken := false, brokenFrames := count })
    (address : t.address = s.address) : ReceiverLaw t := by
  obtain ⟨timer, setting, _, _, _, _, given⟩ := law
  have size : 1 ≤ width.toNat ∧ width.toNat ≤ 4096 ∧ 1 ≤ height.toNat ∧ height.toNat ≤ 4096 := by
    simpa [fieldsInRange, and_assoc] using inRange
  rw [decide_eq_false signal] at timer
  refine ⟨by rw [rx]; exact timer, by rw [rx]; exact setting, fun _ => ?_, by rw [rx]; exact Nat.zero_le _,
    fun h => ?_, fun _ _ _ => by rw [rx], address ▸ given⟩
  · rw [rx]; exact ⟨rfl, size⟩
  · rw [rx] at h; cases h

/-- Outside a frame, with the signal there and no capture running. -/
theorem ReceiverLaw.outside (law : ReceiverLaw s) {st : ReceiverState} {errors count : Half}
    (state : st = .hunt ∨ st = .blank) (signal : s.rx.state ≠ .noSignal)
    (rx : t.rx = { s.rx with state := st, linkErrors := errors, brokenFrames := count })
    (stopped : ∀ r sig, t.sig.capture ≠ .running r sig) (address : t.address = s.address) : ReceiverLaw t := by
  obtain ⟨timer, setting, _, lines, unknown, _, given⟩ := law
  rw [decide_eq_false signal] at timer
  have here : t.rx.state = st := by rw [rx]
  refine ⟨?_, by rw [rx]; exact setting, fun h => ?_, by rw [rx]; exact lines, by rw [rx]; exact unknown,
    fun r sig h => absurd h (stopped r sig), address ▸ given⟩
  · rw [here, show t.rx.timer = s.rx.timer by rw [rx], timer]
    obtain rfl | rfl := state <;> rfl
  · rw [here] at h
    obtain rfl | rfl := state <;> cases h

/-- Outside a frame no capture is running. -/
theorem ReceiverLaw.not_running (law : ReceiverLaw s) (out : s.rx.state ≠ .frame) (r : CaptureRecord) (sig : Word) :
    s.sig.capture ≠ .running r sig := fun h => out (law.capture r sig h)

theorem ReceiverLaw.loseSignal (law : ReceiverLaw s) : ReceiverLaw s.loseSignal := by
  have rx := loseSignal_rx s
  have address := (FrameKeeps.loseSignal s).address
  have stopped (r : CaptureRecord) (sig : Word) : s.loseSignal.sig.capture ≠ .running r sig := by
    unfold State.loseSignal
    rw [State.raise_sig]
    dsimp only
    split
    · exact State.captureSignalLost_stops _ r sig
    · next out => exact law.not_running out r sig
  obtain ⟨_, setting, _, lines, unknown, _, given⟩ := law
  refine ⟨by rw [rx]; rfl, by rw [rx]; exact ⟨setting.1, nofun⟩, fun h => ?_, by rw [rx]; exact lines,
    by rw [rx]; exact unknown, fun r sig h => absurd h (stopped r sig), address ▸ given⟩
  rw [rx] at h
  cases h

theorem ReceiverLaw.linkReset (law : ReceiverLaw s) (signal : s.rx.state ≠ .noSignal) : ReceiverLaw s.linkReset := by
  refine law.outside (.inl rfl) signal (linkReset_rx s) (fun r sig => by rw [linkReset_capture]; nofun) ?_
  simp only [State.linkReset, State.linkResetCommit, State.linkResetReturn]
  rw [State.stopRunning_eq]
  dsimp only
  split <;> rfl

theorem offerCommand_link (s : State) (c : CommandPacket) : (s.offerCommand c).rx = s.rx ∧
    (s.offerCommand c).sig = s.sig ∧ (s.offerCommand c).address = s.address := by
  unfold State.offerCommand
  split <;> exact ⟨rfl, rfl, rfl⟩

theorem frameLine_address (s : State) (line : Half) (pixels : List Word) : (s.frameLine line pixels).address = s.address := by
  unfold State.frameLine
  dsimp only
  split
  · rw [State.afterLookups_eq]; rfl
  · rfl

/-- A line of the frame in progress is counted up to the limit (R127). -/
theorem ReceiverLaw.frameLine (law : ReceiverLaw s) (inFrame : s.rx.state = .frame) (line : Half) (pixels : List Word) :
    ReceiverLaw (s.frameLine line pixels) := by
  have rx := frameLine_rx s line pixels
  have address := frameLine_address s line pixels
  obtain ⟨timer, setting, size, _, unknown, _, given⟩ := law
  refine ⟨by rw [rx]; exact timer, by rw [rx]; exact setting, ?_, ?_, by rw [rx]; exact unknown,
    fun _ _ _ => by rw [rx]; exact inFrame, address ▸ given⟩
  · rw [rx]; exact size
  · rw [rx]; exact Nat.min_le_right _ _

theorem ReceiverLaw.takeGood (law : ReceiverLaw s) {p : ForwardPacket} (inRange : fieldsInRange p = true) :
    ReceiverLaw (takeGood p s) := by
  have seen := law.signalPresent
  have present := s.signalPresent_present
  cases p with
  | fs frame width height =>
    simp only [Machine.takeGood, takeFs]
    split
    · next inFrame =>
      refine seen.frameStart (last := s.signalPresent.rx.lastBoundary) (count := saturate16 s.signalPresent.rx.brokenFrames)
        inRange present ?_ (FrameKeeps.overrunStart _ frame width height).address
      rw [State.forward_rx, overrunStart_rx, ← inFrame, ← (seen.size inFrame).1]
    · exact seen.frameStart inRange present (frameBoundary_rx _ _ _ _) (FrameKeeps.frameBoundary _ _ _ _).address
  | ln line pixels =>
    simp only [Machine.takeGood, takeLn]
    split
    · next inFrame => exact seen.frameLine inFrame line pixels
    · next blank => exact seen.outside (.inl rfl) present rfl (seen.not_running (by rw [blank]; nofun)) rfl
    · exact seen.keep rfl rfl rfl
    · exact seen.keep rfl rfl rfl
  | fe linesSent =>
    simp only [Machine.takeGood, takeFe]
    split
    · exact seen.outside (.inr rfl) present (frameEnd_rx _ linesSent) (State.captureFrameEnd_stops _ _)
        (FrameKeeps.frameEnd _ linesSent).address
    · next blank => exact seen.outside (.inl rfl) present rfl (seen.not_running (by rw [blank]; nofun)) rfl
    · exact seen.keep rfl rfl rfl
    · exact seen.keep rfl rfl rfl
  | cm c =>
    simp only [Machine.takeGood, takeCm]
    have offered : ReceiverLaw (if s.offers c then s.signalPresent.offerCommand c else s.signalPresent) := by
      split
      · obtain ⟨rx, sig, address⟩ := offerCommand_link s.signalPresent c
        exact seen.keep rx (by rw [sig]) address
      · exact seen
    split
    · exact offered.keep rfl rfl rfl
    · exact offered
  | cr total =>
    simp only [Machine.takeGood, takeCr]
    split
    · exact seen.keep rfl rfl rfl
    · exact seen.sameSignal rfl rfl rfl
  | lr => exact (seen.linkReset present).keep rfl rfl rfl
  | fill => exact seen.keep rfl rfl rfl

theorem JobEnds.receiverLaw (h : JobEnds s u) (law : ReceiverLaw s) : ReceiverLaw u := by
  obtain ⟨job, rest, m, n, banks, fault, status, payload, _, rfl⟩ := h
  exact law.keep (by simp) (by simp) (by simp)

theorem breakFrameIf_receiverLaw (law : ReceiverLaw s) (readsLn : Bool) : ReceiverLaw (s.breakFrameIf readsLn) := by
  unfold State.breakFrameIf
  split
  · exact law.sameSignal rfl rfl rfl
  · exact law

theorem linkErrorUnless_receiverLaw (law : ReceiverLaw s) (sound : Bool) : ReceiverLaw (s.linkErrorUnless sound) := by
  cases sound
  · exact law.sameSignal rfl rfl rfl
  · exact law

theorem ReceiverLaw.takeReturn (law : ReceiverLaw s) (bytes : List Byte) : ReceiverLaw (takeReturn bytes s) := by
  unfold Machine.takeReturn
  split
  · exact linkErrorUnless_receiverLaw law _
  · split
    · exact law.sameSignal rfl rfl rfl
    · refine linkErrorUnless_receiverLaw ?_ _
      exact law.keep rfl rfl rfl

theorem ReceiverLaw.endMessage (law : ReceiverLaw s) (h : endMessage s = some u) : ReceiverLaw u := by
  unfold Machine.endMessage at h
  split at h
  · cases h
  · split at h <;> cases h
    exact law.keep rfl rfl rfl
  · split at h <;> cases h
    exact law.keep rfl rfl rfl
  · cases h
    exact law.keep rfl rfl rfl

theorem actOnOutcome_link (s : State) (o : GuardOutcome) : (s.actOnOutcome o).rx = s.rx ∧
    (s.actOnOutcome o).sig = s.sig ∧ (s.actOnOutcome o).address = s.address := by
  unfold State.actOnOutcome
  split
  · split
    · rw [State.confirmCommit_eq]; exact ⟨rfl, rfl, rfl⟩
    · exact ⟨rfl, rfl, rfl⟩
  · exact ⟨rfl, rfl, rfl⟩
  · exact ⟨rfl, rfl, rfl⟩
  · exact ⟨rfl, rfl, rfl⟩

theorem BodyEffect.receiverLaw {c : CommandPacket} {r : CommandResult} (effect : BodyEffect c s r) (law : ReceiverLaw s) :
    ReceiverLaw r.state := by
  cases effect with
  | setsTimer ms _ positive =>
    obtain ⟨timer, setting, size, lines, unknown, running, given⟩ := law
    exact ⟨timer, ⟨positive, setting.2⟩, size, lines, unknown, running, given⟩
  | armsCapture =>
    obtain ⟨timer, setting, size, lines, unknown, _, given⟩ := law
    exact ⟨timer, setting, size, lines, unknown, nofun, given⟩
  | claimsAddress new _ inRange =>
    obtain ⟨timer, setting, size, lines, unknown, running, _⟩ := law
    refine ⟨timer, setting, size, lines, unknown, running, fun e => ?_⟩
    have value := congrArg BitVec.toNat e
    simp only [CommandResult.state, BitVec.extractLsb'_toNat] at value
    simp at value
    omega
  | discardsWithJob h =>
    have blocks : ((s.abortJobOf h).giveUpStaged h).rx = s.rx ∧ ((s.abortJobOf h).giveUpStaged h).sig = s.sig ∧
        ((s.abortJobOf h).giveUpStaged h).address = s.address := by rw [s.abortJobOf_eq h]; exact ⟨rfl, rfl, rfl⟩
    obtain ⟨rx, sig, address⟩ := blocks
    exact law.keep rx (congrArg _ sig) address
  | confirmsCommit => rw [CommandResult.state, State.confirmCommit_eq]; exact law.keep rfl rfl rfl
  | reads =>
    exact law.keep (by simp [CommandResult.state, State.readFrom]) (by simp [CommandResult.state, State.readFrom])
      (by simp [CommandResult.state, State.readFrom])
  | _ => exact law.keep rfl rfl rfl

theorem ReceiverLaw.finishCommand {c : CommandPacket} {r : CommandResult} (law : ReceiverLaw r.state) :
    ReceiverLaw (finishCommand c r) := by
  cases r with
  | reply status payload t => exact ReceiverLaw.keep (s := t) law rfl rfl rfl
  | deferred t => exact ReceiverLaw.keep (s := t) law rfl rfl rfl
  | wait t => exact ReceiverLaw.keep (s := t) law rfl rfl rfl

theorem Occurs.receiverLaw {i : Instr} (h : Occurs i s u) (law : ReceiverLaw s) : ReceiverLaw u := by
  cases h with
  | nothing => exact law
  | good p inRange => exact law.takeGood inRange
  | malformed bytes => exact (breakFrameIf_receiverLaw law.signalPresent _).sameSignal rfl rfl rfl
  | bad bytes => exact (breakFrameIf_receiverLaw law _).sameSignal rfl rfl rfl
  | losesSignal => exact law.loseSignal
  | takesReturn bytes => exact law.takeReturn bytes
  | takesOutcome o rest =>
    obtain ⟨rx, sig, address⟩ := actOnOutcome_link { s with commit := { s.commit with handed := rest } } o
    exact law.keep rx (congrArg _ sig) address
  | endsFill _ _ ends => exact (endFill_jobEnds ends).receiverLaw law
  | endsCopy _ _ ends => exact (endCopy_jobEnds ends).receiverLaw law
  | endsCheck _ _ ends => exact (endCheck_jobEnds ends).receiverLaw law
  | endsScrub _ _ ends => exact (endScrub_jobEnds ends).receiverLaw law
  | begins _ _ begins =>
    obtain ⟨_, hq⟩ := Option.ite_none_right_eq_some.1 begins
    obtain ⟨q, _, rfl⟩ := Option.map_eq_some_iff.1 hq
    exact law.keep rfl rfl rfl
  | sends _ _ ends => exact law.endMessage ends
  | announces _ _ announces =>
    obtain ⟨_, hu⟩ := Option.ite_none_right_eq_some.1 announces
    cases hu
    exact law.keep rfl rfl rfl
  | heads c r _ _ _ _ effect =>
    refine (effect.receiverLaw ?_).finishCommand
    exact law.keep rfl rfl rfl
  | resumes c r _ _ _ effect => exact (effect.receiverLaw law).finishCommand

end Receiver

/-! ### The laws of the link -/

theorem creditLaw_powerOn (s : State) : CreditLaw s.powerOn := .initial rfl ⟨nofun, nofun⟩

theorem eventLaw_powerOn (s : State) : EventLaw s.powerOn := by
  have ⟨oneEvent, reported, settled⟩ := eventLaw_reset
  exact ⟨oneEvent, reported, settled⟩

theorem receiverLaw_powerOn (s : State) : ReceiverLaw s.powerOn := receiverLaw_reset.keep rfl rfl rfl

/-- Settles O8, law by law: each event keeps its law, and the test of R157 leaves no EV due. -/
theorem linkLawsKept : Obligations.LinkLawsKept := by
  intro s t hstep
  obtain rfl | ⟨i, rest, _, rfl | ⟨_, rfl⟩ | rfl | ⟨u, occurs, rfl⟩⟩ := step_cases hstep
  · exact ⟨id, id, id⟩
  · exact ⟨fun law => law.keep (.of_eq rfl), fun ⟨oneEvent, reported, settled⟩ => ⟨oneEvent, reported, settled⟩,
      fun law => law.keep rfl rfl rfl⟩
  · exact ⟨fun _ => creditLaw_powerOn _, fun _ => eventLaw_powerOn _, fun _ => receiverLaw_powerOn _⟩
  · exact ⟨fun law => law.keep (.of_eq rfl), fun ⟨oneEvent, reported, settled⟩ => ⟨oneEvent, reported, settled⟩,
      fun law => law.keep rfl rfl rfl⟩
  · refine ⟨fun law => ?_, fun law => ?_, fun law => ?_⟩
    · exact (occurs.creditLaw (law.keep (.of_eq rfl))).keep (FrameKeeps.reportEvents u).queueGrows
    · have marked : u.EventsMarked := occurs.eventsMarked law.marked
      exact marked.reportEvents.law u.reportEvents_settled
    · exact (occurs.receiverLaw (law.keep rfl rfl rfl)).keep (by simp) (by simp) (by simp)

end Sys2Proof.Machine
end

section
/-! What the lanes carry (R136, R161): the pass queue is relayed in order, and each step forwards at most its own packet. -/

namespace Sys2Proof.Machine

/-! ### The pass queue (R160, R161, R166) -/

section Relay

variable {s u : State} {i : Instr}

theorem takeCr_pass (total : Byte) (s : State) : (takeCr total s).ret.pass = s.ret.pass := by
  unfold takeCr
  dsimp only
  split <;> simp

/-- A message joins the pass queue at the back, or the packet is no message that is kept (R160). -/
theorem takeReturn_pass (bytes : List Byte) (s : State) :
    (takeReturn bytes s).ret.pass = s.ret.pass ∨ (takeReturn bytes s).ret.pass = s.ret.pass ++ [bytes] := by
  unfold takeReturn
  split
  · exact .inl (linkErrorUnless_queueGrows _ _).pass
  · split
    · exact .inl rfl
    · exact .inr (linkErrorUnless_queueGrows _ _).pass

/-- A message sent from the pass queue was its front, and leaves as it is (R161, R165). -/
theorem endMessage_pass (h : endMessage s = some u) :
    u.ret.pass = s.ret.pass ∨ ∃ m, s.ret.pass = m :: u.ret.pass ∧ u.upOut = s.upOut ++ [⟨m, true⟩] := by
  unfold endMessage at h
  split at h
  · cases h
  · split at h <;> cases h
    exact .inl rfl
  · split at h
    · cases h
    · next m rest pass =>
      cases h
      exact .inr ⟨m, pass, rfl⟩
  · cases h
    exact .inl rfl

/-- What an event can do to the pass queue (R161). -/
theorem Occurs.pass (h : Occurs i s u) (wf : i.wellFormed = true) :
    u.ret.pass = s.ret.pass ∨
    (∃ bytes, i = .returnPacket bytes ∧ u.ret.pass = s.ret.pass ++ [bytes]) ∨
    (∃ m, i = .messageSent ∧ s.ret.pass = m :: u.ret.pass ∧ u.upOut = s.upOut ++ [⟨m, true⟩]) ∨
    (u.ret.pass = [] ∧ i = .linkReset) := by
  cases h with
  | nothing => exact .inl rfl
  | good p _ own =>
    cases p with
    | cr total => exact .inl (takeCr_pass total s)
    | lr =>
      refine .inr (.inr (.inr ⟨?_, ?_⟩))
      · exact congrArg ReturnTransmitter.pass (linkReset_ret s.signalPresent)
      · have packet := own wf
        cases i with
        | linkReset => rfl
        | _ => cases packet
    | _ => exact .inl (takeGood_queueGrows (by simp) (by simp) s).pass
  | malformed bytes =>
    exact .inl ((FrameKeeps.signalPresent s).queueGrows.trans (breakFrameIf_queueGrows _ _)).pass
  | bad bytes => exact .inl (breakFrameIf_queueGrows s _).pass
  | losesSignal => exact .inl (FrameKeeps.loseSignal s).queueGrows.pass
  | takesReturn bytes row => exact (takeReturn_pass bytes s).imp_right fun joined => .inl ⟨bytes, row, joined⟩
  | takesOutcome o rest => exact .inl (congrArg _ (actOnOutcome_ret _ o))
  | endsFill _ _ ends => exact .inl (endFill_jobEnds ends).queueGrows.pass
  | endsCopy _ _ ends => exact .inl (endCopy_jobEnds ends).queueGrows.pass
  | endsCheck _ _ ends => exact .inl (endCheck_jobEnds ends).queueGrows.pass
  | endsScrub _ _ ends => exact .inl (endScrub_jobEnds ends).queueGrows.pass
  | begins _ _ begins =>
    obtain ⟨_, hq⟩ := Option.ite_none_right_eq_some.1 begins
    obtain ⟨q, _, rfl⟩ := Option.map_eq_some_iff.1 hq
    exact .inl rfl
  | sends _ row ends => exact (endMessage_pass ends).imp_right fun ⟨m, front, sent⟩ => .inr (.inl ⟨m, row, front, sent⟩)
  | announces _ _ announces =>
    obtain ⟨_, hu⟩ := Option.ite_none_right_eq_some.1 announces
    cases hu
    exact .inl rfl
  | heads c r _ _ _ _ effect => exact .inl (effect.queueGrows.trans (finishCommand_queueGrows c r)).pass
  | resumes c r _ _ _ effect => exact .inl (effect.queueGrows.trans (finishCommand_queueGrows c r)).pass

end Relay

/-- Settles O11: event by event; the test of R157 leaves the pass queue and the return lane as they are. -/
theorem relayFidelity : Obligations.RelayFidelity := by
  intro s t c rest front wf hstep
  obtain rfl | ⟨i, rest', front', rfl | ⟨hpower, rfl⟩ | rfl | ⟨u, occurs, rfl⟩⟩ := step_cases hstep
  · exact .inl rfl
  · exact .inl rfl
  · obtain ⟨rfl, rfl⟩ := List.cons.inj (front.symm.trans front')
    exact .inr (.inr (.inr ⟨rfl, .inl hpower⟩))
  · exact .inl rfl
  · obtain ⟨rfl, rfl⟩ := List.cons.inj (front.symm.trans front')
    rw [(FrameKeeps.reportEvents u).queueGrows.pass, State.reportEvents_upOut]
    obtain same | joined | sent | ⟨emptied, row⟩ := occurs.pass wf
    · exact .inl same
    · exact .inr (.inl joined)
    · exact .inr (.inr (.inl sent))
    · exact .inr (.inr (.inr ⟨emptied, .inr row⟩))

/-! ### The downstream forward lane (R135, R136) -/

section Forward

variable {s u : State} {i : Instr}

theorem frameBoundary_downOut (s : State) (frame width height : Half) :
    (s.frameBoundary frame width height).downOut = s.downOut := by
  simp only [State.frameBoundary, State.signatureFrameStart, State.reportEvents_downOut]
  rw [State.commitBoundary_eq]
  simp only [State.reportEvents_downOut]
  rw [State.applyPendingMode_eq]
  simp only [State.reportEvents_downOut]

theorem overrunStart_downOut (s : State) (frame width height : Half) :
    (s.overrunStart frame width height).downOut = s.downOut := by
  simp only [State.overrunStart, State.signatureFrameStart]
  rw [State.captureOverrun_eq]
  rfl

theorem frameEnd_downOut (s : State) (linesSent : Half) : (s.frameEnd linesSent).downOut = s.downOut := by
  unfold State.frameEnd
  rw [State.captureFrameEnd_eq]
  dsimp only
  split
  · rw [State.reportEvents_downOut, State.evaluate_eq]; dsimp only; split <;> rfl
  · split <;> rfl

theorem offerCommand_downOut (s : State) (c : CommandPacket) : (s.offerCommand c).downOut = s.downOut := by
  unfold State.offerCommand
  split <;> rfl

theorem linkReset_downOut (s : State) : s.linkReset.downOut = s.downOut := by
  simp only [State.linkReset, State.linkResetCommit, State.linkResetReturn]
  rw [State.stopRunning_eq]
  dsimp only
  split <;> rfl

theorem loseSignal_downOut (s : State) : s.loseSignal.downOut = s.downOut := by
  unfold State.loseSignal
  rw [State.raise_downOut]
  dsimp only
  split
  · rw [State.captureSignalLost_eq]; rfl
  · rfl

/-- A frame line in ACTIVE is sent re-encoded, with its number and as many pixels; any other as it arrived (R3, R4). -/
theorem frameLine_downOut (s : State) (line : Half) (pixels : List Word) : ∃ words : List Word,
    words.length = pixels.length ∧ (s.pix.mode ≠ .active → words = pixels) ∧
      (s.frameLine line pixels).downOut = s.downOut ++ [⟨encodePacket (.ln line words), true⟩] := by
  unfold State.frameLine
  dsimp only
  split
  · next active =>
    refine ⟨(s.transformed line (pixels.map tripleOfWord)).1.map wordOfTriple, ?_, fun h => absurd active h, ?_⟩
    · simp [State.transformed, transformFrom_length]
    · rw [State.afterLookups_eq]; rfl
  · exact ⟨pixels, rfl, fun _ => rfl, rfl⟩

theorem takeFs_downOut (frame width height : Half) (s : State) :
    (takeFs frame width height s).downOut = s.downOut ++ [⟨encodePacket (.fs frame width height), true⟩] := by
  simp only [takeFs, State.forward_downOut]
  split
  · rw [overrunStart_downOut, State.signalPresent_downOut]
  · rw [frameBoundary_downOut, State.signalPresent_downOut]

theorem takeLn_downOut (line : Half) (pixels : List Word) (s : State) : ∃ words : List Word,
    words.length = pixels.length ∧ (s.rx.state ≠ .frame ∨ s.pix.mode ≠ .active → words = pixels) ∧
      (takeLn line pixels s).downOut = s.downOut ++ [⟨encodePacket (.ln line words), true⟩] := by
  simp only [takeLn]
  split
  · next inFrame =>
    obtain ⟨words, length, unchanged, out⟩ := frameLine_downOut s.signalPresent line pixels
    rw [State.signalPresent_rx] at inFrame
    rw [State.signalPresent_downOut] at out
    rw [State.signalPresent_pix] at unchanged
    refine ⟨words, length, ?_, out⟩
    rintro (outside | other)
    · exact absurd ((LaneReceiver.seen_state_frame_iff _).1 inFrame) outside
    · exact unchanged other
  · exact ⟨pixels, rfl, fun _ => rfl, by simp⟩
  · exact ⟨pixels, rfl, fun _ => rfl, by simp⟩
  · exact ⟨pixels, rfl, fun _ => rfl, by simp⟩

theorem takeFe_downOut (linesSent : Half) (s : State) :
    (takeFe linesSent s).downOut = s.downOut ++ [⟨encodePacket (.fe linesSent), true⟩] := by
  simp only [takeFe, State.forward_downOut]
  split <;> simp [frameEnd_downOut]

theorem takeCm_downOut (c : CommandPacket) (s : State) : (takeCm c s).downOut =
    if s.passesOn c then s.downOut ++ [⟨encodePacket (.cm c), true⟩] else s.downOut := by
  simp only [takeCm]
  split
  · split <;> simp [offerCommand_downOut]
  · split <;> simp [offerCommand_downOut]

theorem takeCr_downOut (total : Byte) (s : State) : (takeCr total s).downOut = s.downOut := by
  simp only [takeCr]
  split <;> simp

theorem takeLr_downOut (s : State) : (takeLr s).downOut = s.downOut ++ [⟨encodePacket .lr, true⟩] := by
  simp [takeLr, linkReset_downOut]

theorem takeFill_downOut (s : State) : (takeFill s).downOut = s.downOut ++ [⟨encodePacket .fill, true⟩] := by
  simp [takeFill]

theorem breakFrameIf_downOut (s : State) (readsLn : Bool) : (s.breakFrameIf readsLn).downOut = s.downOut := by
  unfold State.breakFrameIf
  split <;> rfl

theorem takeReturn_downOut (bytes : List Byte) (s : State) : (takeReturn bytes s).downOut = s.downOut := by
  have counted (t : State) (sound : Bool) : (t.linkErrorUnless sound).downOut = t.downOut := by cases sound <;> rfl
  unfold takeReturn
  split_ifs <;> simp [counted]

theorem actOnOutcome_downOut (s : State) (o : GuardOutcome) : (s.actOnOutcome o).downOut = s.downOut := by
  unfold State.actOnOutcome
  split
  · split
    · rw [State.confirmCommit_eq]
    · rfl
  · rfl
  · rfl
  · rfl

theorem endMessage_downOut (h : endMessage s = some u) : u.downOut = s.downOut := by
  unfold endMessage at h
  split at h
  · cases h
  · split at h <;> cases h; rfl
  · split at h <;> cases h; rfl
  · cases h; rfl

theorem JobEnds.downOut (h : JobEnds s u) : u.downOut = s.downOut := by
  obtain ⟨_, _, _, _, _, _, _, _, _, rfl⟩ := h
  simp

theorem BodyEffect.downOut {c : CommandPacket} {r : CommandResult} (effect : BodyEffect c s r) :
    r.state.downOut = s.downOut := by
  cases effect with
  | confirmsCommit => rw [CommandResult.state, State.confirmCommit_eq]
  | discardsWithJob h => rw [CommandResult.state, State.giveUpStaged, s.abortJobOf_eq h]
  | reads => simp [CommandResult.state, State.readFrom]
  | _ => rfl

theorem finishCommand_downOut (c : CommandPacket) (r : CommandResult) : (finishCommand c r).downOut = r.state.downOut := by
  cases r <;> rfl

/-- A row that is no packet of the forward lane and announces no credit sends nothing downstream (R136). -/
theorem Occurs.downOut (h : Occurs i s u) (wf : i.wellFormed = true) (noPacket : i.packet = none)
    (notBad : ∀ bytes, i ≠ .badPacket bytes) (notMalformed : ∀ bytes, i ≠ .malformedForwardPacket bytes)
    (notCredit : i ≠ .creditAnnouncement) : u.downOut = s.downOut := by
  cases h with
  | nothing => rfl
  | good p _ own => rw [noPacket] at own; cases own wf
  | malformed bytes own => exact absurd (own wf) (notMalformed bytes)
  | bad bytes own => exact absurd (own wf) (notBad bytes)
  | losesSignal => exact loseSignal_downOut s
  | takesReturn bytes => exact takeReturn_downOut bytes s
  | takesOutcome o rest => exact actOnOutcome_downOut _ o
  | endsFill _ _ ends => exact (endFill_jobEnds ends).downOut
  | endsCopy _ _ ends => exact (endCopy_jobEnds ends).downOut
  | endsCheck _ _ ends => exact (endCheck_jobEnds ends).downOut
  | endsScrub _ _ ends => exact (endScrub_jobEnds ends).downOut
  | begins _ _ begins =>
    obtain ⟨_, hq⟩ := Option.ite_none_right_eq_some.1 begins
    obtain ⟨q, _, rfl⟩ := Option.map_eq_some_iff.1 hq
    rfl
  | sends _ _ ends => exact endMessage_downOut ends
  | announces _ row => exact absurd row notCredit
  | heads c r _ _ _ _ effect => rw [finishCommand_downOut, effect.downOut, State.slotReserved_downOut]
  | resumes c r _ _ _ effect => rw [finishCommand_downOut, effect.downOut]

theorem good_downOut {t : State} {p : ForwardPacket} (held : s.resetHeld = false) (inRange : fieldsInRange p = true)
    (h : takeStep (fun s => some (takePacket p s)) s = .next t) : t.downOut = (takeGood p s).downOut := by
  rw [execPacket held inRange] at h
  rw [← Host.Outcome.next.inj h, State.reportEvents_downOut]

theorem bytes_downOut {t : State} {bytes : List Byte} (held : s.resetHeld = false)
    (h : takeStep (fun s => some (takeBytes bytes s)) s = .next t) : t.downOut = (takeBytes bytes s).downOut := by
  rw [takeStep_some held (t := takeBytes bytes s) rfl] at h
  rw [← Host.Outcome.next.inj h, State.reportEvents_downOut]

/-- A due announcement is sent as a CR, and nothing is sent when none is due (R135). -/
theorem announcement_downOut {t : State} (held : s.resetHeld = false) (h : takeStep announceCredit s = .next t) :
    t.downOut = if s.creditDue then s.downOut ++ [⟨encodePacket (.cr s.ret.downGrant), true⟩] else s.downOut := by
  split
  · next due =>
    rw [takeStep_some held (t := { s.forward (encodePacket (.cr s.ret.downGrant)) with creditDue := false })
      (if_pos due)] at h
    rw [← Host.Outcome.next.inj h, State.reportEvents_downOut]
    rfl
  · next idle =>
    rw [takeStep_absent (event := announceCredit) (if_neg idle)] at h
    rw [← Host.Outcome.next.inj h]

/-- What a row sends downstream: its own packet, or nothing (R136). -/
theorem exec_forwards {t : State} (held : s.resetHeld = false) (wf : i.wellFormed = true) (h : exec i s = .next t) :
    (∃ p, Forwards s i p ∧ t.downOut = s.downOut ++ [⟨p, true⟩]) ∨
      ((∀ p, ¬ Forwards s i p) ∧ (t.downOut = s.downOut ∨ (i = .powerOnReset ∧ ForwardLaneCut s t))) := by
  cases i with
  | fs frame width height =>
    exact .inl ⟨_, rfl, (good_downOut (p := .fs frame width height) held wf h).trans (takeFs_downOut ..)⟩
  | ln line pixels =>
    obtain ⟨words, length, unchanged, out⟩ := takeLn_downOut line pixels s
    exact .inl ⟨_, ⟨words, length, rfl, unchanged⟩, (good_downOut (p := .ln line pixels) held wf h).trans out⟩
  | fe linesSent => exact .inl ⟨_, rfl, (good_downOut (p := .fe linesSent) held wf h).trans (takeFe_downOut ..)⟩
  | cm dest tag code payload =>
    have out := (good_downOut (p := .cm ⟨dest, tag, code, payload⟩) held wf h).trans (takeCm_downOut ..)
    by_cases passes : s.passesOn ⟨dest, tag, code, payload⟩ = true
    · rw [if_pos passes] at out
      exact .inl ⟨_, ⟨(State.passesOn_iff _ _).1 passes, rfl⟩, out⟩
    · rw [if_neg passes] at out
      exact .inr ⟨fun p forwards => passes ((State.passesOn_iff _ _).2 forwards.1), .inl out⟩
  | cr total => exact .inr ⟨fun p => id, .inl ((good_downOut (p := .cr total) held wf h).trans (takeCr_downOut ..))⟩
  | linkReset => exact .inl ⟨_, rfl, (good_downOut (p := .lr) held wf h).trans (takeLr_downOut s)⟩
  | fill => exact .inl ⟨_, rfl, (good_downOut (p := .fill) held wf h).trans (takeFill_downOut s)⟩
  | badPacket bytes =>
    have out := bytes_downOut held h
    rw [takeBytes_bad _ (beq_iff_eq.1 wf)] at out
    exact .inl ⟨_, rfl, out.trans (by simp [takeBad, breakFrameIf_downOut])⟩
  | malformedForwardPacket bytes =>
    have out := bytes_downOut held h
    rw [takeBytes_malformed _ (beq_iff_eq.1 wf)] at out
    exact .inl ⟨_, rfl, out.trans (by simp [takeMalformed, breakFrameIf_downOut])⟩
  | creditAnnouncement =>
    have out := announcement_downOut held h
    by_cases due : s.creditDue = true
    · rw [if_pos due] at out
      exact .inl ⟨_, ⟨due, rfl⟩, out⟩
    · rw [if_neg due] at out
      exact .inr ⟨fun p forwards => due forwards.1, .inl out⟩
  | powerOnReset =>
    refine .inr ⟨fun p => id, .inr ⟨rfl, ?_⟩⟩
    rw [← Host.Outcome.next.inj h]
    exact State.forwardCutOff_cases s
  | resetRelease => exact .inr ⟨fun p => id, .inl (Host.Outcome.next.inj h ▸ rfl)⟩
  | _ =>
    refine .inr ⟨fun p => id, .inl ?_⟩
    obtain rfl | ⟨_, u, occurs, rfl⟩ := exec_occurs (by simp) (by simp) h
    · rfl
    · rw [State.reportEvents_downOut]
      exact occurs.downOut wf rfl (by simp) (by simp) (by simp)

end Forward

/-- Settles O12: a step runs the front command, and `exec_forwards` says what that sends. -/
theorem forwardOrder : Obligations.ForwardOrder := fun s _ _ rest front held wf hstep =>
  exec_forwards (s := { s with pending := rest }) held wf (step_cons front rfl ▸ hstep)

end Sys2Proof.Machine
end

section
/-! CAPTURE_SIGNATURE, READ_WINDOW, IDENTIFY and READ_STATUS at the head of the command queue (R114, R115, R147, R148). -/

namespace Sys2Proof.Machine

/-! ### CAPTURE_SIGNATURE (R115) -/

theorem pointOf_eq (b : Byte) :
    pointOf b = if b.toNat ≤ 1 then some (if b = 0 then .input else .output) else none := by
  by_cases h : b.toNat ≤ 1
  · obtain rfl | rfl : b = 0 ∨ b = 1 := by bv_omega
    · rfl
    · rfl
  · rw [pointOf, if_neg (by bv_omega), if_neg (by bv_omega), if_neg h]

theorem captureBody_busy {s : State} {c : CommandPacket} (hl : c.payload.length = 9) (hbusy : s.sig.capture ≠ .idle) :
    captureBody c s = .reply .busy (zeros 22) s := by
  rw [captureBody, withLength_ok hl, if_pos hbusy]

theorem captureBody_invalid {s : State} {c : CommandPacket} (hl : c.payload.length = 9) (hidle : s.sig.capture = .idle)
    (hbad : pointOf (byteAt c.payload 0) = none ∨ rectAt c.payload 1 = none) :
    captureBody c s = .reply .badArgument (zeros 22) s := by
  rw [captureBody, withLength_ok hl, if_neg (not_not.2 hidle)]
  obtain hpoint | hrect := hbad
  · rw [hpoint]
  · rw [hrect]
    cases pointOf (byteAt c.payload 0) with
    | none => rfl
    | some point => rfl

theorem captureBody_valid {s : State} {c : CommandPacket} {point : CapturePoint} {rect : Rect} (hl : c.payload.length = 9)
    (hidle : s.sig.capture = .idle) (hpoint : pointOf (byteAt c.payload 0) = some point)
    (hrect : rectAt c.payload 1 = some rect) :
    captureBody c s = .deferred { s with sig := { s.sig with capture := .armed ⟨point, rect, c.tag, c.code, 0⟩ } } := by
  rw [captureBody, withLength_ok hl, if_neg (not_not.2 hidle), hpoint, hrect]

/-- Settles O59: by the capture unit's state, then by whether the point and the rectangle are read. -/
theorem captureArmed : Obligations.CaptureArmed := by
  intro s c hr hc hl x0 y0 x1 y1 point valid
  have hcode : (c.code == codeCaptureSignature) = true := beq_iff_eq.2 hc
  refine ⟨fun hbusy => execHead_unchanged hr hcode (captureBody_busy hl hbusy), fun hidle hbad => ?_, fun hidle hvalid => ?_⟩
  · refine execHead_unchanged hr hcode (captureBody_invalid hl hidle ?_)
    by_cases hpoint : point.toNat ≤ 1
    · exact .inr (if_neg fun hrect => hbad ⟨hpoint, hrect⟩)
    · exact .inl (by rw [pointOf_eq, if_neg hpoint])
  · obtain ⟨hpoint, hrect⟩ := hvalid
    have hread : pointOf point = some (if point = 0 then .input else .output) := by rw [pointOf_eq, if_pos hpoint]
    exact execHead_deferred (u := { s with sig := { s.sig with capture := _ } }) hr hcode
      (captureBody_valid hl hidle hread (if_pos hrect)) rfl

/-! ### READ_WINDOW (R114) -/

theorem windowOf_none {b : Byte} (h : 4 ≤ b.toNat) : windowOf b = none := dif_neg (Nat.not_lt.2 h)

theorem windowOf_natByte (k : Fin 4) : windowOf (natByte k.val) = some k := by revert k; decide

theorem readWindowBody_absent {c : CommandPacket} {b : Byte} (s : State) (hp : c.payload = [b]) (hb : 4 ≤ b.toNat) :
    readWindowBody c s = .reply .badArgument (zeros 30) s := by
  rw [readWindowBody, withLength_singleton hp, byteAt_singleton hp, windowOf_none hb]

theorem readWindowBody_window {c : CommandPacket} {k : Fin 4} (s : State) (hp : c.payload = [natByte k.val]) :
    readWindowBody c s = .reply .ok (s.windowPayload k) s := by
  rw [readWindowBody, withLength_singleton hp, byteAt_singleton hp, windowOf_natByte]

/-! ### IDENTIFY and READ_STATUS (R147, R148) -/

/-- A command without arguments passes the check of its length (R141). -/
theorem withLength_nil {body : CommandPacket → State → CommandResult} {c : CommandPacket} {s : State}
    (hp : c.payload = []) : withLength 0 body c s = body c s := withLength_ok (by rw [hp]; rfl)

theorem identifyBody_nil {c : CommandPacket} (s : State) (hp : c.payload = []) :
    identifyBody c s = .reply .ok [0x4C, 0x31, 2, s.address.setWidth 8, 16, 10, 4, 4, 6, 4] s := withLength_nil hp

/-- The up-credits reported fit in a byte: they are a difference of two byte totals (R162). -/
theorem natByte_upCredits (s : State) : natByte s.upCredits = s.ret.upGrant - s.ret.upSent := by
  rw [natByte, State.upCredits, BitVec.ofNat_toNat, BitVec.setWidth_eq]

theorem readStatusBody_nil {c : CommandPacket} (s : State) (hp : c.payload = []) :
    readStatusBody c s = .reply .ok s.statusPayload s := withLength_nil hp

/-- Settles O60, command by command. -/
theorem reportsOfThePart : Obligations.ReportsOfThePart := by
  intro s c hr
  refine ⟨fun hc hp => ?_, fun hc hp => ?_, fun b hc hp hb => ?_, fun k hc hp => ?_⟩
  · exact execHead_unchanged hr (beq_iff_eq.2 hc) (identifyBody_nil _ hp)
  · rw [← natByte_upCredits]
    exact execHead_unchanged hr (beq_iff_eq.2 hc) (readStatusBody_nil _ hp)
  · exact execHead_unchanged hr (beq_iff_eq.2 hc) (readWindowBody_absent _ hp hb)
  · exact execHead_unchanged hr (beq_iff_eq.2 hc) (readWindowBody_window _ hp)

end Sys2Proof.Machine
end

section
/-! CANCEL_COMMIT, CONFIRM_COMMIT and ROLLBACK_COMMIT at the head of the command queue (R85, R95, R96, R99), and the outcome of
a guard taken by the commit unit (R93). -/

namespace Sys2Proof.Machine

/-! ### What each body gives in each commit state -/

theorem cancelBody_nil {c : CommandPacket} (s : State) (hp : c.payload = []) :
    cancelBody c s = (match s.commit.state with
      | .pending => commitReply .ok s.cancelCommit
      | .idle => commitReply (if s.commit.lastApplied then .late else .wrongState) s
      | .guarding => commitReply .guardActive s
      | .rollbackPending => commitReply .guardActive s) := withLength_nil hp

theorem confirmBody_nil {c : CommandPacket} (s : State) (hp : c.payload = []) :
    confirmBody c s = (match s.commit.state with
      | .guarding => commitReply .ok s.confirmCommit
      | .rollbackPending => commitReply .late s
      | .idle => commitReply .wrongState s
      | .pending => commitReply .wrongState s) := withLength_nil hp

theorem rollbackBody_nil {c : CommandPacket} (s : State) (hp : c.payload = []) :
    rollbackBody c s = (match s.commit.state with
      | .guarding => commitReply .ok s.requestRollback
      | .rollbackPending => commitReply .ok s
      | .idle => commitReply .wrongState s
      | .pending => commitReply .wrongState s) := withLength_nil hp

/-- One of the three commands that changes nothing answers the commit state it finds and the guard counter (log 16). -/
theorem execHead_commitReply {codes : Byte → Bool} {body : CommandPacket → State → CommandResult} {s : State}
    {c : CommandPacket} {status : Status} (st : CommitState) (hr : HeadReady s c) (hc : codes c.code = true)
    (hst : s.commit.state = st) (hb : body c s.slotReserved = commitReply status s.slotReserved) :
    takeStep (takeHead codes body) s = .next (s.answered c status [st.byte, s.commit.guardCounter.setWidth 8]) := by
  subst hst
  exact execHead_unchanged hr hc hb

/-! ### CANCEL_COMMIT (R85) -/

/-- A pending commit cancelled: its handles are LOADED again, the configuration is free again, and the unit is in IDLE. -/
theorem exec_cancelCommit_pending {s : State} {c : CommandPacket} {p : PendingCommit} (hr : HeadReady s c)
    (hc : c.code = codeCancelCommit) (hp : c.payload = []) (hst : s.commit.state = .pending)
    (hpending : s.commit.pendingCommit = some p) :
    exec .cancelCommit s = .next ({ s with
      banks := s.banks.setStagedStates p.handles .loaded, cfg := { s.cfg with frozen := false },
      commit := { s.commit with state := .idle, pendingCommit := none } }.answered c .ok
        [0, s.commit.guardCounter.setWidth 8]) := by
  have hbody : cancelBody c s.slotReserved = commitReply .ok s.slotReserved.cancelCommit := by
    rw [cancelBody_nil _ hp, State.slotReserved_commit, hst]
  have hcancel : s.slotReserved.cancelCommit = { s.slotReserved with
      banks := s.banks.setStagedStates p.handles .loaded, cfg := { s.cfg with frozen := false },
      commit := { s.commit with state := .idle, pendingCommit := none } } := by
    simp only [State.cancelCommit, State.slotReserved_commit, hpending]
    rfl
  refine execHead_reply (u := { s with banks := _, cfg := _, commit := _ }) hr (beq_iff_eq.2 hc) ?_ rfl
  rw [hbody, hcancel]
  rfl

/-! ### CONFIRM_COMMIT (R95, R96) -/

theorem State.confirmCommit_eq_latch (s : State) :
    s.confirmCommit = { s with
      banks := s.banks.confirm, cfg := { s.cfg with saved := none },
      commit := { s.commit with state := .idle, guardedSet := none, guardCounter := 0 } }.latch 0x020 := by
  rw [State.confirmCommit, State.raise_eq_latch]
  rfl

/-- A confirm does not look at the command unit. -/
theorem State.slotReserved_confirmCommit (s : State) :
    s.slotReserved.confirmCommit = { s.confirmCommit with cmd := s.slotReserved.cmd } := by
  simp only [State.confirmCommit_eq, State.slotReserved]

theorem exec_confirmCommit_guarding {s : State} {c : CommandPacket} (hr : HeadReady s c) (hc : c.code = codeConfirmCommit)
    (hp : c.payload = []) (hst : s.commit.state = .guarding) :
    exec .confirmCommit s = .next (s.confirmCommit.answered c .ok [0, 0]) := by
  have hbody : confirmBody c s.slotReserved = commitReply .ok s.slotReserved.confirmCommit := by
    rw [confirmBody_nil _ hp, State.slotReserved_commit, hst]
  rw [commitReply, State.commitPayload, confirmCommit_commit, State.slotReserved_confirmCommit] at hbody
  exact execHead_reply hr (beq_iff_eq.2 hc) hbody (by rw [State.confirmCommit_eq])

/-! ### ROLLBACK_COMMIT (R99) -/

theorem exec_rollbackCommit_guarding {s : State} {c : CommandPacket} (hr : HeadReady s c)
    (hc : c.code = codeRollbackCommit) (hp : c.payload = []) (hst : s.commit.state = .guarding) :
    exec .rollbackCommit s = .next
      ({ s with commit := { s.commit with state := .rollbackPending } }.answered c .ok
        [3, s.commit.guardCounter.setWidth 8]) := by
  refine execHead_reply (u := { s with commit := _ }) hr (beq_iff_eq.2 hc) ?_ rfl
  rw [rollbackBody_nil _ hp, State.slotReserved_commit, hst]
  rfl

/-- Settles O55, command by command and commit state by commit state. -/
theorem cancelConfirmRollbackCommands : Obligations.CancelConfirmRollbackCommands := by
  intro s c hr hp counter
  refine ⟨fun hc => ?_, fun hc => ?_, fun hc => ?_⟩
  · have hcode : (c.code == codeCancelCommit) = true := beq_iff_eq.2 hc
    have hbody := cancelBody_nil s.slotReserved hp
    rw [State.slotReserved_commit] at hbody
    refine ⟨fun p hst hpending => ?_, fun hst => ?_, fun hst => ?_, fun hst => ?_⟩
    · obtain ⟨hrecord, hfree, hquarantine, hwithdrawn⟩ := s.banks.setStagedStates_spec p.handles .loaded
      exact ⟨_, hrecord, hfree, hquarantine, hwithdrawn, exec_cancelCommit_pending hr hc hp hst hpending⟩
    · exact execHead_commitReply .idle hr hcode hst (by rw [hbody, hst])
    · exact execHead_commitReply .guarding hr hcode hst (by rw [hbody, hst])
    · exact execHead_commitReply .rollbackPending hr hcode hst (by rw [hbody, hst])
  · have hcode : (c.code == codeConfirmCommit) = true := beq_iff_eq.2 hc
    have hbody := confirmBody_nil s.slotReserved hp
    rw [State.slotReserved_commit] at hbody
    refine ⟨fun hst => ?_, fun hst => ?_, fun hst => ?_, fun hst => ?_⟩
    · obtain ⟨hrecord, hfree, hquarantine, hwithdrawn⟩ := s.banks.confirm_spec
      refine ⟨_, hrecord, hfree, hquarantine, hwithdrawn, ?_⟩
      rw [← State.confirmCommit_eq_latch]
      exact exec_confirmCommit_guarding hr hc hp hst
    · exact execHead_commitReply .rollbackPending hr hcode hst (by rw [hbody, hst])
    · exact execHead_commitReply .idle hr hcode hst (by rw [hbody, hst])
    · exact execHead_commitReply .pending hr hcode hst (by rw [hbody, hst])
  · have hcode : (c.code == codeRollbackCommit) = true := beq_iff_eq.2 hc
    have hbody := rollbackBody_nil s.slotReserved hp
    rw [State.slotReserved_commit] at hbody
    refine ⟨fun hst => ?_, fun hst => ?_, fun hst => ?_, fun hst => ?_⟩
    · exact exec_rollbackCommit_guarding hr hc hp hst
    · exact execHead_commitReply .rollbackPending hr hcode hst (by rw [hbody, hst])
    · exact execHead_commitReply .idle hr hcode hst (by rw [hbody, hst])
    · exact execHead_commitReply .pending hr hcode hst (by rw [hbody, hst])

/-! ### GUARD_OUTCOME (R93, R95) -/

theorem State.actOnOutcome_unguarded {s : State} (o : GuardOutcome) (h : s.commit.state ≠ .guarding) :
    s.actOnOutcome o = s := by
  cases hst : s.commit.state with
  | guarding => exact absurd hst h
  | idle => simp only [State.actOnOutcome, hst]
  | pending => simp only [State.actOnOutcome, hst]
  | rollbackPending => simp only [State.actOnOutcome, hst]

theorem State.actOnOutcome_notCounted (s : State) : s.actOnOutcome .notCounted = s := by
  cases hst : s.commit.state with
  | guarding => simp only [State.actOnOutcome, hst]
  | idle => exact State.actOnOutcome_unguarded _ (by simp [hst])
  | pending => exact State.actOnOutcome_unguarded _ (by simp [hst])
  | rollbackPending => exact State.actOnOutcome_unguarded _ (by simp [hst])

theorem State.actOnOutcome_failed {s : State} (h : s.commit.state = .guarding) :
    s.actOnOutcome .failed = s.requestRollback := by
  simp only [State.actOnOutcome, h]

theorem State.actOnOutcome_counted {s : State} (h : s.commit.state = .guarding) :
    s.actOnOutcome .counted =
      if s.commit.guardCounter ≤ 1 then s.confirmCommit
      else { s with commit := { s.commit with guardCounter := s.commit.guardCounter - 1 } } := by
  simp only [State.actOnOutcome, h]

theorem exec_guardOutcome_handed {s : State} {o : GuardOutcome} {rest : List GuardOutcome} (hs : s.resetHeld = false)
    (hh : s.commit.handed = o :: rest) :
    exec .guardOutcome s =
      .next ({ s with commit := { s.commit with handed := rest } }.actOnOutcome o).reportEvents :=
  takeStep_some hs (by rw [takeOutcome, hh])

/-- Settles O56: by the commit state and the outcome; a counter of 1 confirms. -/
theorem guardOutcomeTaken : Obligations.GuardOutcomeTaken := by
  intro s o rest hs hh taken
  rw [exec_guardOutcome_handed hs hh]
  refine ⟨fun h => ?_, fun hst ho => ?_, fun hst ho hcount => ?_, fun hst ho hcount => ?_⟩
  · obtain hst | rfl := h
    · rw [State.actOnOutcome_unguarded (s := { s with commit := { s.commit with handed := rest } }) o hst]
    · rw [State.actOnOutcome_notCounted]
  · subst ho
    rw [State.actOnOutcome_failed (s := { s with commit := { s.commit with handed := rest } }) hst]
    rfl
  · subst ho
    have hmore : ¬ s.commit.guardCounter ≤ 1 := by bv_omega
    rw [State.actOnOutcome_counted (s := { s with commit := { s.commit with handed := rest } }) hst, if_neg hmore]
  · subst ho
    have hlast : s.commit.guardCounter ≤ 1 := by rw [hcount]; decide
    obtain ⟨hrecord, hfree, hquarantine, hwithdrawn⟩ := s.banks.confirm_spec
    refine ⟨s.banks.confirm, hrecord, hfree, hquarantine, hwithdrawn, ?_⟩
    rw [State.actOnOutcome_counted (s := { s with commit := { s.commit with handed := rest } }) hst, if_pos hlast]
    rfl

end Sys2Proof.Machine
end

section
/-! RELEASE_TABLE and DISCARD_TABLE at the head of the command queue (R32, R39, R61): the side given up, and the job of a handle
aborted. -/

namespace Sys2Proof.Machine

/-! ### A side given up, written out (R32) -/

/-- What a move of one side leaves, written out. -/
theorem BankMap.MovedAt.eq_modify {b b' : BankMap} {h : Handle} {new : HandleRecord} {gone : Option Side}
    (m : b.MovedAt b' h new gone) (f : HandleRecord → HandleRecord) (hf : f (b.record h) = new) :
    b' = { (b.modify h f) with free := b.free ++ freedBanks [gone], quarantine := b.quarantine ++ quarantinedBanks [gone] } := by
  refine BankMap.ext_records (fun h' => ?_) m.free m.quarantine m.withdrawn
  rw [m.record h', ← hf]
  exact (b.record_modify h h' f).symm

/-! ### RELEASE_TABLE (R39) -/

theorem releaseBody_handle {c : CommandPacket} {h : Handle} (s : State) (hp : c.payload = [handleByte h]) :
    releaseBody c s = (match (s.banks.record h).active with
      | none => .reply .wrongState (zeros 2) s
      | some side =>
          if (s.banks.record h).stagedState = .committing then .reply .pending (zeros 2) s
          else if s.cfg.names h || s.jobs.any (fun job => job.work.copies h) then .reply .inUse (zeros 2) s
          else .reply .ok [handleByte h, bankByte side.bank] { s with banks := s.banks.releaseActive h }) :=
  (withLength_singleton hp).trans (withHandle_ok (byteAt_singleton hp))

/-- A handle is in use when a configuration names it or a COPY reads it (R39). -/
theorem State.inUse_iff (s : State) (h : Handle) :
    (s.cfg.names h || s.jobs.any fun job => job.work.copies h) = true ↔
      s.cfg.active.names h ∨ s.cfg.staged.names h ∨ s.cfg.saved.any (fun saved => saved.names h) ∨
        s.jobs.any (fun j => j.work.copies h) := by
  simp only [ConfigStore.names, Bool.or_eq_true, or_assoc]

/-- Settles O49: along the chain of checks; the side given up by `BankMap.releaseActive_moved`. -/
theorem releaseTableGivesUpActiveSide : Obligations.ReleaseTableGivesUpActiveSide := by
  intro s c h hr hc hp r
  have hcode : (c.code == codeReleaseTable) = true := beq_iff_eq.2 hc
  have hbody := releaseBody_handle s.slotReserved hp
  simp only [State.slotReserved_banks, State.slotReserved_cfg, State.slotReserved_jobs, State.inUse_iff] at hbody
  cases hactive : r.active with
  | none => exact execHead_unchanged hr hcode (by rw [hbody, hactive]; rfl)
  | some side =>
    simp only [show (s.banks.record h).active = some side from hactive] at hbody
    dsimp only
    by_cases hcommitting : r.stagedState = .committing
    · rw [if_pos hcommitting] at hbody ⊢
      exact execHead_unchanged hr hcode hbody
    rw [if_neg hcommitting] at hbody ⊢
    split_ifs at hbody ⊢ with huse
    · exact execHead_unchanged hr hcode hbody
    · have hmoved := hactive ▸ s.banks.releaseActive_moved h
      rw [hmoved.eq_modify (fun r => { r with active := none }) rfl] at hbody
      exact execHead_reply (u := { s with banks := _ }) hr hcode hbody rfl

/-! ### The job of a handle dropped (R46, R61) -/

/-- The one job that works on a handle, and the jobs before and behind it. -/
structure OnlyJobOf (jobs : List Job) (h : Handle) (before : List Job) (job : Job) (after : List Job) : Prop where
  split  : jobs = before ++ job :: after
  works  : job.work.worksOn h = true
  before : ∀ j ∈ before, j.work.worksOn h = false
  after  : ∀ j ∈ after, j.work.worksOn h = false

theorem OnlyJobOf.find {jobs before after : List Job} {h : Handle} {job : Job} (only : OnlyJobOf jobs h before job after) :
    (jobs.find? fun j => j.work.worksOn h) = some job := by
  have hnone : (before.find? fun j => j.work.worksOn h) = none :=
    List.find?_eq_none.2 fun j hj => by simp [only.before j hj]
  rw [only.split, List.find?_append, hnone, Option.none_or]
  exact List.find?_cons_of_pos (p := fun j : Job => j.work.worksOn h) only.works

theorem OnlyJobOf.rest {jobs before after : List Job} {h : Handle} {job : Job} (only : OnlyJobOf jobs h before job after) :
    (jobs.filter fun j => !j.work.worksOn h) = before ++ after := by
  have hbefore : (before.filter fun j => !j.work.worksOn h) = before :=
    List.filter_eq_self.2 fun j hj => by simp [only.before j hj]
  have hafter : (after.filter fun j => !j.work.worksOn h) = after :=
    List.filter_eq_self.2 fun j hj => by simp [only.after j hj]
  rw [only.split, List.filter_append, List.filter_cons_of_neg (by simp [only.works]), hbefore, hafter]

/-- The running job works on no bank but the staged one of its handle, when it works on a handle. -/
theorem State.runningBank_ne {s : State} {h : Handle} {side : Side} {job : Job} {rest : List Job} {b : Bank}
    (hjobs : s.jobs = job :: rest) (hworks : job.work.worksOn h = true) (hstaged : (s.banks.record h).staged = some side)
    (hb : b ≠ side.bank) : s.runningBank ≠ some b := by
  obtain ⟨work, tag, code⟩ := job
  cases work with
  | fill h' | copy h' source keyCount =>
    obtain rfl : h' = h := by simpa [JobWork.worksOn] using hworks
    simpa [State.runningBank, hjobs, hstaged] using hb.symm
  | check h' expected keyCount => simp [State.runningBank, hjobs]
  | scrub bank => cases hworks

/-- The only job of a handle leaves the queue. When others are ahead of it, it waits, and no word was written. -/
theorem State.dropJobOf_only {s : State} {h : Handle} {side : Side} {before after : List Job} {job : Job}
    (only : OnlyJobOf s.jobs h before job after) (hstaged : (s.banks.record h).staged = some side) :
    ∃ m k, (∀ b i, b ≠ side.bank → Memory.at m (wordAddr b i) = s.word b i) ∧ (before ≠ [] → m = s.mem ∧ k = 0) ∧
      s.dropJobOf h = { s with mem := m, abandons := s.abandons + k, jobs := before ++ after } := by
  have hrest := only.rest
  cases before with
  | nil =>
    obtain ⟨_, _, helsewhere⟩ := s.stopRunning_memory
    have hjobs : s.jobs = job :: after := only.split
    refine ⟨s.stopRunning.mem, 1, fun b i hb => helsewhere b i (s.runningBank_ne hjobs only.works hstaged hb), by simp, ?_⟩
    simp only [hjobs, List.nil_append] at hrest
    simp [State.dropJobOf, State.stopRunning, hjobs, only.works, hrest]
  | cons first ahead =>
    have hjobs : s.jobs = first :: (ahead ++ job :: after) := only.split
    have hwaits : first.work.worksOn h = false := only.before first (by simp)
    refine ⟨s.mem, 0, fun b i _ => rfl, fun _ => ⟨rfl, rfl⟩, ?_⟩
    simp only [hjobs] at hrest
    simp [State.dropJobOf, hjobs, hwaits, hrest]

/-! ### DISCARD_TABLE (R61) -/

theorem discardBody_handle {c : CommandPacket} {h : Handle} (s : State) (hp : c.payload = [handleByte h]) :
    discardBody c s = (match (s.banks.record h).stagedState with
      | .none => .reply .wrongState (zeros 1) s
      | .committing => .reply .pending (zeros 1) s
      | .filling => .reply .ok [handleByte h] ((s.abortJobOf h).giveUpStaged h)
      | .copying => .reply .ok [handleByte h] ((s.abortJobOf h).giveUpStaged h)
      | .checking => .reply .ok [handleByte h] ((s.abortJobOf h).giveUpStaged h)
      | .opened => .reply .ok [handleByte h] (s.giveUpStaged h)
      | .loaded => .reply .ok [handleByte h] (s.giveUpStaged h)) :=
  (withLength_singleton hp).trans (withHandle_ok (byteAt_singleton hp))

/-- The staged side of a handle given up, written out (R32, R61). -/
theorem BankMap.releaseStaged_eq {b : BankMap} {h : Handle} {side : Side} (hstaged : (b.record h).staged = some side) :
    b.releaseStaged h = { (b.modify h fun r => { r with staged := none, stagedState := .none }) with
      free := b.free ++ freedBanks [some side], quarantine := b.quarantine ++ quarantinedBanks [some side] } :=
  (hstaged ▸ b.releaseStaged_moved h).eq_modify (fun r => { r with staged := none, stagedState := .none }) rfl

/-- The payload of an ABORTED reply for a job of a handle (R61). -/
theorem abortedPayload_of_worksOn {w : JobWork} {h : Handle} (hw : w.worksOn h = true) :
    abortedPayload w = (match (generalizing := false) w with | .check _ _ _ => zeros 8 | _ => zeros 6) := by
  cases w with
  | fill h' => rfl
  | copy h' source keyCount => rfl
  | check h' expected keyCount => rfl
  | scrub bank => cases hw

/-- Settles O48: by the staged state; the job dropped by `State.dropJobOf_only`. -/
theorem discardTableGivesUpStagedSide : Obligations.DiscardTableGivesUpStagedSide := by
  intro s c h hr hc hp r
  have hcode : (c.code == codeDiscardTable) = true := beq_iff_eq.2 hc
  have hbody := discardBody_handle s.slotReserved hp
  rw [State.slotReserved_banks] at hbody
  refine ⟨fun hst => ?_, fun hst => ?_, fun side hside => ?_⟩
  · exact execHead_unchanged hr hcode (by rw [hbody, show (s.banks.record h).stagedState = _ from hst]; rfl)
  · exact execHead_unchanged hr hcode (by rw [hbody, show (s.banks.record h).stagedState = _ from hst]; rfl)
  intro banks
  have hbanks : s.banks.releaseStaged h = banks := BankMap.releaseStaged_eq hside
  refine ⟨fun hst => ?_, fun hbusy before after job hjobs hjob hothers => ?_⟩
  · have hgive : discardBody c s.slotReserved = .reply .ok [handleByte h] (s.slotReserved.giveUpStaged h) := by
      obtain hst | hst := hst
      · rw [hbody, show (s.banks.record h).stagedState = _ from hst]
      · rw [hbody, show (s.banks.record h).stagedState = _ from hst]
    rw [State.giveUpStaged, State.slotReserved_banks, hbanks] at hgive
    exact execHead_reply (u := { s with banks := banks }) hr hcode hgive rfl
  · have only : OnlyJobOf s.slotReserved.jobs h before job after :=
      { split := hjobs
        works := (job.work.worksOn_iff h).2 hjob
        before := fun j hj => by
          rw [Bool.eq_false_iff, ne_eq, JobWork.worksOn_iff]; exact hothers j (List.mem_append_left _ hj)
        after := fun j hj => by
          rw [Bool.eq_false_iff, ne_eq, JobWork.worksOn_iff]; exact hothers j (List.mem_append_right _ hj) }
    obtain ⟨m, k, hwords, hwaits, hdrop⟩ := State.dropJobOf_only only hside
    refine ⟨m, k, hwords, hwaits, ?_⟩
    have hgive : discardBody c s.slotReserved = .reply .ok [handleByte h] ((s.slotReserved.abortJobOf h).giveUpStaged h) := by
      simp only [List.mem_cons, List.not_mem_nil, or_false] at hbusy
      obtain hst | hst | hst := hbusy
      · rw [hbody, show (s.banks.record h).stagedState = _ from hst]
      · rw [hbody, show (s.banks.record h).stagedState = _ from hst]
      · rw [hbody, show (s.banks.record h).stagedState = _ from hst]
    have habort : s.slotReserved.abortJobOf h = { s.slotReserved with
        mem := m, abandons := s.abandons + k, jobs := before ++ after }.withReply job.tag job.code .aborted
          (abortedPayload job.work) := by
      rw [State.abortJobOf, only.find]
      dsimp only
      rw [hdrop, State.withReply_eq_reply]
      rfl
    rw [habort, State.giveUpStaged, State.withReply, abortedPayload_of_worksOn only.works] at hgive
    refine execHead_reply (u := State.withReply { s with
      mem := m, abandons := s.abandons + k, jobs := before ++ after, banks := banks } _ _ _ _) hr hcode (hgive.trans ?_) rfl
    simp only [State.withReply, State.slotReserved_banks, hbanks]
    rfl

end Sys2Proof.Machine
end

section
/-! READ_TABLE at the head of the command queue (R19, R40, R41), and the waiting of the head command (R140, R143). -/

namespace Sys2Proof.Machine

/-! ### READ_TABLE (R40, R41) -/

theorem sideOf_none {b : Byte} (h : 2 < b.toNat) : sideOf b = none := by
  rw [sideOf, if_neg (by bv_omega), if_neg (by bv_omega), if_neg (by bv_omega)]

theorem sideOf_byte (name : SideName) : sideOf name.byte = some name := by cases name <;> rfl

/-- A READ_TABLE of a handle of 1-10, by the side it names. -/
def readTableSide (h : Handle) (c : CommandPacket) (s : State) : Option SideName → CommandResult
  | none => .reply .badArgument (s.banks.record h).refusedRead s
  | some name =>
      match (s.banks.record h).side name with
      | none => .reply .wrongState (s.banks.record h).refusedRead s
      | some side =>
          if name = .staged ∧ ((s.banks.record h).stagedState = .filling ∨ (s.banks.record h).stagedState = .copying) then
            .reply .wrongState (s.banks.record h).refusedRead s
          else if (byteAt c.payload 4).toNat < 1 ∨ 16 < (byteAt c.payload 4).toNat ∨
              1024 < (halfAt c.payload 2).toNat + (byteAt c.payload 4).toNat then
            .reply .badArgument (s.banks.record h).refusedRead s
          else readAccepted h name side (halfAt c.payload 2).toNat (byteAt c.payload 4).toNat s

theorem readTableBody_handle {c : CommandPacket} {h : Handle} (s : State) (hl : c.payload.length = 5)
    (hb : byteAt c.payload 0 = handleByte h) :
    readTableBody c s = readTableSide h c s (sideOf (byteAt c.payload 1)) := by
  rw [readTableBody, withLength_ok hl, withHandle_ok hb]
  dsimp only
  cases sideOf (byteAt c.payload 1) with
  | none => rfl
  | some name => rfl

/-- A side that is absent, or a staged side that a job still writes, is not read. -/
theorem readTableSide_wrongState {h : Handle} {s : State} {name : SideName} (c : CommandPacket)
    (hw : (s.banks.record h).side name = none ∨
      (name = .staged ∧ ((s.banks.record h).stagedState = .filling ∨ (s.banks.record h).stagedState = .copying))) :
    readTableSide h c s (some name) = .reply .wrongState (s.banks.record h).refusedRead s := by
  cases hside : (s.banks.record h).side name with
  | none => simp only [readTableSide, hside]
  | some side =>
    have hbusy := hw.resolve_left (by simp [hside])
    simp only [readTableSide, hside]
    rw [if_pos hbusy]

/-- A side that may be read: the run named is refused or read. -/
theorem readTableSide_readable {h : Handle} {s : State} {name : SideName} {side : Side} (c : CommandPacket)
    (hside : (s.banks.record h).side name = some side)
    (hfree : name = .staged → (s.banks.record h).stagedState ≠ .filling ∧ (s.banks.record h).stagedState ≠ .copying) :
    readTableSide h c s (some name) =
      if (byteAt c.payload 4).toNat < 1 ∨ 16 < (byteAt c.payload 4).toNat ∨
          1024 < (halfAt c.payload 2).toNat + (byteAt c.payload 4).toNat then
        .reply .badArgument (s.banks.record h).refusedRead s
      else readAccepted h name side (halfAt c.payload 2).toNat (byteAt c.payload 4).toNat s := by
  have hbusy : ¬ (name = .staged ∧
      ((s.banks.record h).stagedState = .filling ∨ (s.banks.record h).stagedState = .copying)) := by
    rintro ⟨hname, hfilling | hcopying⟩
    · exact (hfree hname).1 hfilling
    · exact (hfree hname).2 hcopying
  simp only [readTableSide, hside]
  rw [if_neg hbusy]

theorem State.readFrom_eq_latch (s : State) (h : Handle) (name : SideName) (count : Nat) (faulty : Bool) :
    s.readFrom h name count faulty = { s with
      reads := s.reads + count,
      banks := if faulty then s.banks.modify h fun r => r.markSide name else s.banks }.latch (if faulty then 0x200 else 0) :=
  State.raiseIf_eq_latch _ _ _

/-- Settles O50: along the chain of checks; the words of an accepted read by `readRun_eq_map`. -/
theorem readTableReturnsWords : Obligations.ReadTableReturnsWords := by
  intro s c h hr hc hl hb r start count refused
  have hcode : (c.code == codeReadTable) = true := beq_iff_eq.2 hc
  have hbody := readTableBody_handle s.slotReserved hl hb
  refine ⟨fun hname => ?_, fun name hname => ⟨fun hwrong => ?_, fun side hside hfree => ?_⟩⟩
  · rw [sideOf_none hname] at hbody
    exact execHead_unchanged hr hcode hbody
  · rw [hname, sideOf_byte, readTableSide_wrongState (s := s.slotReserved) c hwrong] at hbody
    exact execHead_unchanged hr hcode hbody
  rw [hname, sideOf_byte, readTableSide_readable (s := s.slotReserved) c hside hfree] at hbody
  refine ⟨fun hrange => ?_, fun hfirst hlast hend => ⟨_, rfl, ?_⟩⟩
  · have hbad : count < 1 ∨ 16 < count ∨ 1024 < start + count := by omega
    exact execHead_unchanged hr hcode (hbody.trans (if_pos hbad))
  · have hgood : ¬ (count < 1 ∨ 16 < count ∨ 1024 < start + count) := by omega
    intro faulty
    rw [← State.readFrom_eq_latch]
    refine execHead_reply (u := s.readFrom h name count faulty) hr hcode ((hbody.trans (if_neg hgood)).trans ?_) ?_
    · simp only [readAccepted, readRun_eq_map, State.readFrom, State.raiseIf_eq_latch]
      rfl
    · rw [State.readFrom, State.raiseIf_cmd]

/-! ### The head command waits (R140, R143) -/

/-- The head command taken afresh: the waiting command with its slot given back. -/
def State.afresh (s : State) : State := { s with cmd := { s.cmd with slots := s.cmd.slots - 1, waiting := false } }

/-- The command at the head no longer waits. -/
def State.woken (s : State) : State := { s with cmd := { s.cmd with waiting := false } }

/-- A result with its state woken. -/
def CommandResult.woken : CommandResult → CommandResult
  | .reply status payload s => .reply status payload s.woken
  | .deferred s => .deferred s.woken
  | .wait s => .wait s.woken

/-- A command ends, and its execution leaves the command unit as it found it. -/
def CommandResult.EndsWith (u : CommandUnit) : CommandResult → Prop
  | .reply _ _ s => s.cmd = u
  | .deferred s => s.cmd = u
  | .wait _ => False

/-- A command that ends does so whether it was waiting or not. -/
theorem finishCommand_woken {u : CommandUnit} {r : CommandResult} (c : CommandPacket) (h : r.EndsWith u) :
    finishCommand c r.woken = finishCommand c r := by
  cases r with
  | reply status payload s => rfl
  | deferred s => rfl
  | wait s => exact absurd h id

theorem finishCommand_queue {u : CommandUnit} {r : CommandResult} (c : CommandPacket) (h : r.EndsWith u) :
    (finishCommand c r).cmd.queue = u.queue.tail := by
  cases r with
  | reply status payload s =>
    obtain rfl : s.cmd = u := h
    simp [finishCommand]
  | deferred s =>
    obtain rfl : s.cmd = u := h
    rfl
  | wait s => exact absurd h id

/-- A body that ends, and does the same whether its command was waiting or not. -/
structure RunsWithRoom (body : CommandPacket → State → CommandResult) (c : CommandPacket) (s : State) : Prop where
  woken : body c s.woken = (body c s).woken
  ends  : (body c s).EndsWith s.cmd

theorem RunsWithRoom.withLength {body : CommandPacket → State → CommandResult} {c : CommandPacket} {s : State} {len : Nat}
    (runs : RunsWithRoom body c s) : RunsWithRoom (withLength len body) c s := by
  by_cases hl : c.payload.length = len
  · exact ⟨by rw [withLength_ok hl, withLength_ok hl, runs.woken], by rw [withLength_ok hl]; exact runs.ends⟩
  · exact ⟨by rw [withLength_bad hl, withLength_bad hl]; rfl, by rw [withLength_bad hl]; exact rfl⟩

theorem RunsWithRoom.withHandle {body : Handle → CommandPacket → State → CommandResult} {c : CommandPacket} {s : State}
    (runs : ∀ h, RunsWithRoom (body h) c s) : RunsWithRoom (withHandle body) c s := by
  cases hh : handleOf (byteAt c.payload 0) with
  | none => exact ⟨by simp only [Machine.withHandle, hh]; rfl, by simp only [Machine.withHandle, hh]; exact rfl⟩
  | some h =>
    exact ⟨by simp only [Machine.withHandle, hh]; exact (runs h).woken,
      by simp only [Machine.withHandle, hh]; exact (runs h).ends⟩

/-- Waking changes the command unit alone, so the checks of a body see the same. -/
theorem State.woken_banks (s : State) : s.woken.banks = s.banks := rfl

theorem State.woken_jobs (s : State) : s.woken.jobs = s.jobs := rfl

theorem State.woken_jobRoom (s : State) : s.woken.jobRoom = s.jobRoom := rfl

theorem openWithRoom_runs (h : Handle) (copy : Bool) (c : CommandPacket) (s : State) :
    RunsWithRoom (openWithRoom h copy) c s := by
  cases hfree : s.banks.free with
  | nil => exact ⟨by simp only [openWithRoom, State.woken_banks, hfree]; rfl, by simp only [openWithRoom, hfree]; exact rfl⟩
  | cons bank rest =>
    exact ⟨by simp only [openWithRoom, State.woken_banks, hfree]; rfl, by simp only [openWithRoom, hfree]; exact rfl⟩

theorem openBody_runs {s : State} (c : CommandPacket) (room : s.jobRoom = true) : RunsWithRoom openBody c s := by
  refine RunsWithRoom.withLength (RunsWithRoom.withHandle fun h => ⟨?_, ?_⟩)
  · simp only [State.woken_banks, State.woken_jobRoom, room, if_true]
    cases openModeOf (byteAt c.payload 1) with
    | none => rfl
    | some copy =>
      dsimp only
      split_ifs
      · rfl
      · rfl
      · exact (openWithRoom_runs h copy c s).woken
  · simp only [room, if_true]
    cases openModeOf (byteAt c.payload 1) with
    | none => exact rfl
    | some copy =>
      dsimp only
      split_ifs
      · exact rfl
      · exact rfl
      · exact (openWithRoom_runs h copy c s).ends

theorem closeBody_runs {s : State} (c : CommandPacket) (room : s.jobRoom = true) : RunsWithRoom closeBody c s := by
  refine RunsWithRoom.withLength (RunsWithRoom.withHandle fun h => ⟨?_, ?_⟩)
  · simp only [State.woken_banks, State.woken_jobRoom, room, if_true]
    split_ifs
    all_goals rfl
  · simp only [room, if_true]
    split_ifs
    all_goals exact rfl

theorem scrubBody_runs {s : State} (c : CommandPacket) (room : s.jobRoom = true) : RunsWithRoom scrubBody c s := by
  refine RunsWithRoom.withLength ⟨?_, ?_⟩
  · simp only [State.woken_banks, State.woken_jobs, State.woken_jobRoom, room, if_true]
    cases bankOf (byteAt c.payload 0) with
    | none => rfl
    | some bank =>
      dsimp only
      split_ifs
      all_goals rfl
  · simp only [room, if_true]
    cases bankOf (byteAt c.payload 0) with
    | none => exact rfl
    | some bank =>
      dsimp only
      split_ifs
      all_goals exact rfl

theorem State.afresh_slotReserved {s : State} (hslot : 1 ≤ s.cmd.slots) : s.afresh.slotReserved = s.woken := by
  simp only [State.afresh, State.slotReserved, State.woken, Nat.sub_add_cancel hslot]

/-- A waiting command resumed does what it does taken afresh (R47, R143). -/
theorem resumeHead_afresh {codes : Byte → Bool} {body : CommandPacket → State → CommandResult} {s : State}
    {c : CommandPacket} (hs : s.resetHeld = false) (hhead : s.cmd.queue.head? = some c) (hwaiting : s.cmd.waiting = true)
    (hslot : 1 ≤ s.cmd.slots) (hslots : s.cmd.slots ≤ 8) (room : s.jobRoom = true) (hc : codes c.code = true)
    (hbody : waitingBody c s = body c s) (runs : RunsWithRoom body c s) :
    ∃ t, exec .waitingCommandResumed s = .next t ∧ takeStep (takeHead codes body) s.afresh = .next t ∧
      t.cmd.queue = s.cmd.queue.tail := by
  have hresume : resumeHead s = some (finishCommand c (body c s)) := by
    obtain ⟨rest, hqueue⟩ := List.head?_eq_some_iff.1 hhead
    simp only [resumeHead, hqueue, hwaiting, room, and_self, if_true, hbody]
  have hready : HeadReady s.afresh c :=
    { held := hs, head := hhead, fresh := rfl, slot := by show s.cmd.slots - 1 < 8; omega }
  have hafresh : takeHead codes body s.afresh = some (finishCommand c (body c s)) := by
    rw [takeHead_ready hready hc, State.afresh_slotReserved hslot, runs.woken, finishCommand_woken c runs.ends]
  refine ⟨_, takeStep_some hs hresume, takeStep_some hs hafresh, ?_⟩
  rw [State.reportEvents_cmd]
  exact finishCommand_queue c runs.ends

/-- Settles O51: no command is taken by `execHead_absent`; a waiting one resumed by `resumeHead_afresh`. -/
theorem headCommandWaits : Obligations.HeadCommandWaits := by
  refine ⟨fun s hstuck => ?_, fun s c hs hhead hwaiting hslot hslots hroom => ?_⟩
  · have habsent (codes : Byte → Bool) (body : CommandPacket → State → CommandResult) :
        takeStep (takeHead codes body) s = .next s := by
      refine execHead_absent ?_
      obtain hfull | hwaiting := hstuck
      · exact .inr (.inl hfull)
      · exact .inl hwaiting
    refine ⟨habsent _ _, habsent _ _, fun e he => ?_⟩
    obtain ⟨body, hexec⟩ := exec_fixedCommand he
    rw [hexec]
    exact habsent _ _
  · intro afresh
    have room : s.jobRoom = true := decide_eq_true hroom
    refine ⟨fun hc => ?_, fun hc => ?_, fun hc => ?_⟩
    · have hbody : waitingBody c s = openBody c s := if_pos hc
      exact resumeHead_afresh hs hhead hwaiting hslot hslots room (beq_iff_eq.2 hc) hbody (openBody_runs c room)
    · have hbody : waitingBody c s = closeBody c s := by
        rw [waitingBody, hc, if_neg (by decide), if_pos (by decide)]
      exact resumeHead_afresh hs hhead hwaiting hslot hslots room (beq_iff_eq.2 hc) hbody (closeBody_runs c room)
    · have hbody : waitingBody c s = scrubBody c s := by
        rw [waitingBody, hc, if_neg (by decide), if_neg (by decide), if_pos (by decide)]
      exact resumeHead_afresh hs hhead hwaiting hslot hslots room (beq_iff_eq.2 hc) hbody (scrubBody_runs c room)

end Sys2Proof.Machine
end

section
/-! WRITE_CONFIG and COMMIT at the head of the command queue (R66 to R68, R71, R76 to R79): the record a WRITE_CONFIG carries, and
the six checks of a COMMIT in order. -/

namespace Sys2Proof.Machine

/-! ### WRITE_CONFIG (R71) -/

theorem writeConfigBody_frozen {c : CommandPacket} {s : State} (hl : c.payload.length = 22) (hf : s.cfg.frozen = true) :
    writeConfigBody c s = .reply .pending (zeros 2) s := by
  rw [writeConfigBody, withLength_ok hl]
  exact if_pos hf

theorem writeConfigBody_unknown {c : CommandPacket} {s : State} (hl : c.payload.length = 22) (hf : s.cfg.frozen = false)
    (hname : recordNameOf (byteAt c.payload 0) (byteAt c.payload 1) = none) :
    writeConfigBody c s = .reply .badArgument (zeros 2) s := by
  rw [writeConfigBody, withLength_ok hl]
  simp only [hf, Bool.false_eq_true, if_false, hname]

theorem writeConfigBody_invalid {c : CommandPacket} {s : State} {name : RecordName} (hl : c.payload.length = 22)
    (hf : s.cfg.frozen = false) (hname : recordNameOf (byteAt c.payload 0) (byteAt c.payload 1) = some name)
    (hrecord : s.cfg.staged.withRecord name (c.payload.drop 2) = none) :
    writeConfigBody c s = .reply .badArgument (zeros 2) s := by
  rw [writeConfigBody, withLength_ok hl]
  simp only [hf, Bool.false_eq_true, if_false, hname, hrecord]

theorem writeConfigBody_written {c : CommandPacket} {s : State} {name : RecordName} {staged : Configuration}
    (hl : c.payload.length = 22) (hf : s.cfg.frozen = false)
    (hname : recordNameOf (byteAt c.payload 0) (byteAt c.payload 1) = some name)
    (hrecord : s.cfg.staged.withRecord name (c.payload.drop 2) = some staged) :
    writeConfigBody c s = .reply .ok [byteAt c.payload 0, byteAt c.payload 1]
      { s with cfg := { s.cfg with staged := staged } } := by
  rw [writeConfigBody, withLength_ok hl]
  simp only [hf, Bool.false_eq_true, if_false, hname, hrecord]

/-- Settles O52: along the chain of checks; the carried record by `withRecord_cases`. -/
theorem writeConfigReplacesStagedRecord : Obligations.WriteConfigReplacesStagedRecord := by
  intro s c hr hc hl kind index area
  have hcode : (c.code == codeWriteConfig) = true := beq_iff_eq.2 hc
  refine ⟨fun hf => execHead_unchanged hr hcode (writeConfigBody_frozen (s := s.slotReserved) hl hf),
    fun hf hname => execHead_unchanged hr hcode (writeConfigBody_unknown (s := s.slotReserved) hl hf hname),
    fun name hf hname => ?_⟩
  obtain ⟨hinvalid, hrecord⟩ | ⟨hvalid, staged, hrecord, hholds, hothers⟩ := withRecord_cases s.cfg.staged area name
  · exact ⟨fun _ => execHead_unchanged hr hcode (writeConfigBody_invalid (s := s.slotReserved) hl hf hname hrecord),
      fun hvalid => absurd hinvalid hvalid⟩
  · refine ⟨fun hinvalid => absurd hinvalid hvalid, fun _ => ⟨staged, hholds, hothers, ?_⟩⟩
    exact execHead_reply (u := { s with cfg := { s.cfg with staged := staged } }) hr hcode
      (writeConfigBody_written (s := s.slotReserved) hl hf hname hrecord) rfl

/-! ### The lowest-numbered handle with a property (R77) -/

theorem find_allHandles_some {p : Handle → Bool} {h : Handle} (hp : p h = true) (hfirst : ∀ k < h, p k = false) :
    allHandles.find? p = some h := by
  have hsplit : ∀ h : Handle, allHandles = allHandles.take h.val ++ h :: allHandles.drop (h.val + 1) := by decide
  have hbelow : ∀ h : Handle, ∀ k ∈ allHandles.take h.val, k < h := by decide
  refine List.find?_eq_some_iff_append.2 ⟨hp, _, _, hsplit h, fun k hk => ?_⟩
  rw [hfirst k (hbelow h k hk)]
  rfl

theorem find_allHandles_none {p : Handle → Bool} (h : ∀ k, p k = false) : allHandles.find? p = none :=
  List.find?_eq_none.2 fun k _ => by simp [h k]

theorem State.firstNotLoaded_test (s : State) (set : HandleSet) (h : Handle) :
    (set.has h && decide ((s.banks.record h).stagedState ≠ .loaded)) = true ↔
      set.has h = true ∧ (s.banks.record h).stagedState ≠ .loaded := by
  rw [Bool.and_eq_true, decide_eq_true_iff]

theorem State.firstUnbound_test (s : State) (cfg : Configuration) (set : HandleSet) (h : Handle) :
    (cfg.names h && !set.has h && (s.banks.record h).active.isNone) = true ↔
      cfg.names h = true ∧ set.has h = false ∧ (s.banks.record h).active = none := by
  rw [Bool.and_eq_true, Bool.and_eq_true, Bool.not_eq_true', Option.isNone_iff_eq_none, and_assoc]

/-! ### The arguments of a COMMIT (R76) -/

theorem targetOf_eq (b : Byte) (frame : Half) :
    targetOf b frame = if 1 < b.toNat then none else some (if b = 0 then .next else .at frame) := by
  by_cases h : 1 < b.toNat
  · rw [targetOf, if_neg (by bv_omega), if_neg (by bv_omega), if_pos h]
  · obtain rfl | rfl : b = 0 ∨ b = 1 := by bv_omega
    · rfl
    · rfl

/-- What makes the arguments of a COMMIT malformed (R76 check 3). -/
def CommitMalformed (p : List Byte) : Prop :=
  1 < (byteAt p 0).toNat ∨ 15 < (byteAt p 6).toNat ∨ (halfAt p 3).getLsbD 0 = true ∨ (halfAt p 3).extractLsb' 11 5 ≠ 0 ∨
    ((halfAt p 3).extractLsb' 1 10 = 0 ∧ (byteAt p 5).getLsbD 0 = false)

/-- The commit that the arguments of a COMMIT name. -/
def namedCommit (p : List Byte) : PendingCommit :=
  ⟨if byteAt p 0 = 0 then .next else .at (halfAt p 1), (halfAt p 3).extractLsb' 1 10, (byteAt p 5).getLsbD 0,
    (byteAt p 6).extractLsb' 0 4⟩

theorem pendingCommitOf_malformed {p : List Byte} (h : CommitMalformed p) : pendingCommitOf p = none := by
  obtain htarget | h := h
  · simp only [pendingCommitOf, targetOf_eq, if_pos htarget]
  by_cases htarget : 1 < (byteAt p 0).toNat
  · simp only [pendingCommitOf, targetOf_eq, if_pos htarget]
  by_cases hset : (halfAt p 3).getLsbD 0 = false ∧ (halfAt p 3).extractLsb' 11 5 = 0
  · have hrest : 15 < (byteAt p 6).toNat ∨ ((halfAt p 3).extractLsb' 1 10 = 0 ∧ flagAt p 5 = false) := by
      obtain hguard | hzero | hhigh | hempty := h
      · exact .inl hguard
      · rw [hset.1] at hzero; cases hzero
      · exact absurd hset.2 hhigh
      · exact .inr hempty
    simp only [pendingCommitOf, targetOf_eq, if_neg htarget, handleSetOf, if_pos hset]
    exact if_pos hrest
  · simp only [pendingCommitOf, targetOf_eq, if_neg htarget, handleSetOf, if_neg hset]

theorem pendingCommitOf_named {p : List Byte} (h : ¬ CommitMalformed p) : pendingCommitOf p = some (namedCommit p) := by
  simp only [CommitMalformed, not_or] at h
  obtain ⟨htarget, hguard, hzero, hhigh, hempty⟩ := h
  have hset : (halfAt p 3).getLsbD 0 = false ∧ (halfAt p 3).extractLsb' 11 5 = 0 :=
    ⟨Bool.eq_false_iff.2 hzero, not_not.1 hhigh⟩
  simp only [pendingCommitOf, targetOf_eq, if_neg htarget, handleSetOf, if_pos hset]
  exact if_neg (not_or.2 ⟨hguard, hempty⟩)

/-! ### The checks of a COMMIT (R76 to R78) -/

/-- A COMMIT in IDLE, by the first of its checks on handles and target that fails. -/
def acceptedCommit (p : PendingCommit) (s : State) : CommandResult :=
  match s.firstNotLoaded p.handles with
  | some h => .reply .wrongState (zeros 6 ++ [handleByte h, (s.banks.record h).stagedState.byte]) s
  | none =>
      match s.firstUnbound (s.futureConfig p.includeConfig) p.handles with
      | some h => .reply .unbound (zeros 6 ++ [handleByte h, (s.banks.record h).stagedState.byte]) s
      | none =>
          if s.targetPast p.target then .reply .targetPast (zeros 3 ++ s.boundaryBytes ++ zeros 2) s
          else .reply .ok (p.target.bytes ++ s.boundaryBytes ++ zeros 2) (s.acceptCommit p)

theorem commitBody_busy {c : CommandPacket} {s : State} (hl : c.payload.length = 7) :
    (s.commit.state = .pending → commitBody c s = .reply .pending (zeros 8) s) ∧
      (s.commit.state = .guarding ∨ s.commit.state = .rollbackPending →
        commitBody c s = .reply .guardActive (zeros 8) s) := by
  refine ⟨fun hst => ?_, fun hst => ?_⟩
  · rw [commitBody, withLength_ok hl]
    simp only [hst]
  · rw [commitBody, withLength_ok hl]
    obtain hst | hst := hst
    · simp only [hst]
    · simp only [hst]

theorem commitBody_malformed {c : CommandPacket} {s : State} (hl : c.payload.length = 7) (hst : s.commit.state = .idle)
    (hbad : CommitMalformed c.payload) : commitBody c s = .reply .badArgument (zeros 8) s := by
  rw [commitBody, withLength_ok hl]
  simp only [hst, pendingCommitOf_malformed hbad]

theorem commitBody_named {c : CommandPacket} {s : State} (hl : c.payload.length = 7) (hst : s.commit.state = .idle)
    (hgood : ¬ CommitMalformed c.payload) : commitBody c s = acceptedCommit (namedCommit c.payload) s := by
  rw [commitBody, withLength_ok hl]
  simp only [hst, pendingCommitOf_named hgood]
  rfl

/-- What a handle lacks to be in the set of a commit: to be LOADED (R77 check 4). -/
def State.Unready (s : State) (p : PendingCommit) (h : Handle) : Prop :=
  HandleSet.has p.handles h = true ∧ (s.banks.record h).stagedState ≠ .loaded

/-- A handle fails the reference check (R77 check 5). -/
def State.Unbound (s : State) (p : PendingCommit) (h : Handle) : Prop :=
  (s.futureConfig p.includeConfig).names h = true ∧ HandleSet.has p.handles h = false ∧ (s.banks.record h).active = none

theorem State.firstNotLoaded_some {s : State} {p : PendingCommit} {h : Handle} (hh : s.Unready p h)
    (hfirst : ∀ k < h, ¬ s.Unready p k) : s.firstNotLoaded p.handles = some h :=
  find_allHandles_some ((s.firstNotLoaded_test _ h).2 hh) fun k hk =>
    Bool.eq_false_iff.2 fun hbad => hfirst k hk ((s.firstNotLoaded_test _ k).1 hbad)

theorem State.firstNotLoaded_none {s : State} {p : PendingCommit} (hall : ∀ h, ¬ s.Unready p h) :
    s.firstNotLoaded p.handles = none :=
  find_allHandles_none fun k => Bool.eq_false_iff.2 fun hbad => hall k ((s.firstNotLoaded_test _ k).1 hbad)

theorem State.firstUnbound_some {s : State} {p : PendingCommit} {h : Handle} (hh : s.Unbound p h)
    (hfirst : ∀ k < h, ¬ s.Unbound p k) : s.firstUnbound (s.futureConfig p.includeConfig) p.handles = some h :=
  find_allHandles_some ((s.firstUnbound_test _ _ h).2 hh) fun k hk =>
    Bool.eq_false_iff.2 fun hbad => hfirst k hk ((s.firstUnbound_test _ _ k).1 hbad)

theorem State.firstUnbound_none {s : State} {p : PendingCommit} (hall : ∀ h, ¬ s.Unbound p h) :
    s.firstUnbound (s.futureConfig p.includeConfig) p.handles = none :=
  find_allHandles_none fun k => Bool.eq_false_iff.2 fun hbad => hall k ((s.firstUnbound_test _ _ k).1 hbad)

theorem State.targetPast_iff (s : State) (t : Target) :
    s.targetPast t = true ↔ ∃ n, t = .at n ∧ s.rx.boundarySeen = true ∧ (s.rx.lastBoundary - n).toNat < 32768 := by
  match t with
  | .next => simp [State.targetPast]
  | .at n => simp [State.targetPast]

theorem Target.bytes_eq (t : Target) : t.bytes = (match t with | .next => [0, 0, 0] | .at n => 1 :: bytes16 n) := by
  match t with
  | .next => rfl
  | .at n => rfl

/-- Settles O54: along the chain of the six checks. -/
theorem commitCheckedAndAccepted : Obligations.CommitCheckedAndAccepted := by
  intro s c hr hc hl p malformed unready future unbound past boundary named
  have hcode : (c.code == codeCommit) = true := beq_iff_eq.2 hc
  obtain ⟨hpending, hguard⟩ := commitBody_busy (s := s.slotReserved) hl
  refine ⟨fun hst => execHead_unchanged hr hcode (hpending hst), fun hst => execHead_unchanged hr hcode (hguard hst),
    fun hst hbad => execHead_unchanged hr hcode (commitBody_malformed (s := s.slotReserved) hl hst hbad),
    fun hst hgood => ?_⟩
  have hbody : commitBody c s.slotReserved = acceptedCommit p s.slotReserved := commitBody_named hl hst hgood
  refine ⟨fun h hh hfirst => ?_, fun hready => ⟨fun h hh hfirst => ?_, fun hbound => ?_⟩⟩
  · have hfind := State.firstNotLoaded_some (s := s.slotReserved) (p := p) hh hfirst
    exact execHead_unchanged hr hcode (by rw [hbody, acceptedCommit, hfind]; rfl)
  · have hloaded := State.firstNotLoaded_none (s := s.slotReserved) (p := p) hready
    have hfind := State.firstUnbound_some (s := s.slotReserved) (p := p) hh hfirst
    exact execHead_unchanged hr hcode (by rw [hbody, acceptedCommit, hloaded, hfind]; rfl)
  · have hloaded := State.firstNotLoaded_none (s := s.slotReserved) (p := p) hready
    have hnone := State.firstUnbound_none (s := s.slotReserved) (p := p) hbound
    have htarget := s.slotReserved.targetPast_iff p.target
    rw [acceptedCommit, hloaded, hnone] at hbody
    refine ⟨fun hpast => ?_, fun hahead => ?_⟩
    · exact execHead_unchanged hr hcode (hbody.trans (if_pos (htarget.2 hpast)))
    · obtain ⟨hrecord, hfree, hquarantine, hwithdrawn⟩ := s.banks.setStagedStates_spec p.handles .committing
      refine ⟨_, hrecord, hfree, hquarantine, hwithdrawn, ?_⟩
      have haccept := hbody.trans (if_neg fun hpast => hahead (htarget.1 hpast))
      rw [Target.bytes_eq] at haccept
      exact execHead_reply (u := { s with banks := _, cfg := _, commit := _ }) hr hcode haccept rfl

end Sys2Proof.Machine
end

section
/-! The ends of COPY, CHECK and SCRUB jobs (R46, R49, R50, R52 to R55): what each outcome of the pass over the bank leaves. -/

namespace Sys2Proof.Machine

/-! ### Records changed (R32, R49, R50) -/

theorem BankMap.modify_congr {b : BankMap} {h : Handle} {f g : HandleRecord → HandleRecord}
    (e : f (b.record h) = g (b.record h)) : b.modify h f = b.modify h g := by
  simp only [BankMap.modify, e]

theorem BankMap.modify_modify (b : BankMap) (h : Handle) (f g : HandleRecord → HandleRecord) :
    (b.modify h f).modify h g = b.modify h fun r => g (f r) := by
  refine BankMap.ext_records (fun h' => ?_) rfl rfl rfl
  simp only [BankMap.record_modify, if_true]
  split_ifs
  · rfl
  · rfl

theorem BankMap.finishStaged_eq {b : BankMap} {h : Handle} {side : Side} (keyCount : Nat) (st : StagedState)
    (hstaged : (b.record h).staged = some side) :
    b.finishStaged h keyCount st =
      b.modify h fun r => { r with staged := some { side with keyCount := keyCount }, stagedState := st } :=
  BankMap.modify_congr (by simp only [hstaged, Option.map_some])

theorem BankMap.quarantineStaged_eq {b : BankMap} {h : Handle} {side : Side} (hstaged : (b.record h).staged = some side) :
    b.quarantineStaged h = { (b.modify h fun r => { r with staged := none, stagedState := .none }) with
      quarantine := b.quarantine ++ [side.bank] } := by
  simp only [BankMap.quarantineStaged, hstaged]
  rfl

/-- A source fault: the source side is marked when it is still the active side, and the staged bank goes free (R50). -/
theorem BankMap.markSource_releaseStaged {b : BankMap} {h : Handle} {source : Bank} {side : Side}
    (hstaged : (b.record h).staged = some side) (hmark : side.mark = false) :
    (b.markSource h source).releaseStaged h = { (b.modify h fun r => { r with
        active := r.active.map fun x : Side => if x.bank = source then { x with mark := true } else x,
        staged := none, stagedState := .none }) with free := b.free ++ [side.bank] } := by
  have hmarked : ((b.markSource h source).record h).staged = some side := by
    rw [BankMap.markSource, BankMap.record_modify, if_pos rfl]
    exact hstaged
  rw [BankMap.releaseStaged_eq hmarked, BankMap.markSource, BankMap.modify_modify]
  simp [freedBanks, quarantinedBanks, hmark]
  rfl

/-! ### COPY (R49, R50) -/

theorem endCopy_copied {s : State} {h : Handle} {source : Bank} {keyCount next : Nat} {tag code : Byte} {rest : List Job}
    {side : Side} {m : Memory} (hj : s.jobs = ⟨.copy h source keyCount, tag, code⟩ :: rest)
    (hs : (s.banks.record h).staged = some side)
    (he : copyFrom Config.readDisturbance source side.bank s.mem 0 s.reads 1024 = .copied m next) :
    endCopy s = some ({ s with
        jobs := rest, mem := m, reads := next,
        banks := s.banks.modify h fun r =>
          { r with staged := some ⟨side.bank, keyCount, side.mark⟩, stagedState := .opened } }.withReply tag code .ok
      [handleByte h, bankByte side.bank, 0, 0, 0, 0]) := by
  rw [endCopy, hj]
  simp only [hs, Option.map_some, Config.wordsPerBank, he, State.endJob, hj, List.tail_cons,
    BankMap.finishStaged_eq _ _ hs]
  rfl

theorem endCopy_sourceFault {s : State} {h : Handle} {source : Bank} {keyCount next i : Nat} {tag code : Byte}
    {rest : List Job} {side : Side} {m : Memory} (hj : s.jobs = ⟨.copy h source keyCount, tag, code⟩ :: rest)
    (hs : (s.banks.record h).staged = some side) (hmark : side.mark = false)
    (he : copyFrom Config.readDisturbance source side.bank s.mem 0 s.reads 1024 = .sourceFault i m next) :
    endCopy s = some (({ s with
        jobs := rest, mem := m, reads := next,
        banks := { (s.banks.modify h fun r => { r with
            active := r.active.map fun x : Side => if x.bank = source then { x with mark := true } else x,
            staged := none, stagedState := .none }) with free := s.banks.free ++ [side.bank] } }.latch 0x200).withReply
      tag code .fault ([handleByte h, bankByte source, 1, 0] ++ bytes16 (BitVec.ofNat 16 i))) := by
  rw [endCopy, hj]
  simp only [hs, Option.map_some, Config.wordsPerBank, he, State.endJob, hj, List.tail_cons,
    BankMap.markSource_releaseStaged hs hmark, State.raise_eq_latch]
  rfl

theorem endCopy_destFault {s : State} {h : Handle} {source : Bank} {keyCount next i : Nat} {tag code : Byte}
    {rest : List Job} {side : Side} {m : Memory} (hj : s.jobs = ⟨.copy h source keyCount, tag, code⟩ :: rest)
    (hs : (s.banks.record h).staged = some side)
    (he : copyFrom Config.readDisturbance source side.bank s.mem 0 s.reads 1024 = .destFault i m next) :
    endCopy s = some (({ s with
        jobs := rest, mem := m, reads := next,
        banks := { (s.banks.modify h fun r => { r with staged := none, stagedState := .none }) with
          quarantine := s.banks.quarantine ++ [side.bank] } }.latch 0x200).withReply
      tag code .fault ([handleByte h, bankByte side.bank, 2, 0] ++ bytes16 (BitVec.ofNat 16 i))) := by
  rw [endCopy, hj]
  simp only [hs, Option.map_some, Config.wordsPerBank, he, State.endJob, hj, List.tail_cons,
    BankMap.quarantineStaged_eq hs, State.raise_eq_latch]
  rfl

/-- Settles O41: by how the COPY ends, from `copyFrom_cases`; the words by `copyFrom_copied` and `copyFrom_memory`. -/
theorem copyEndOpensOrGivesUpHandle : Obligations.CopyEndOpensOrGivesUpHandle := by
  intro s h source keyCount tag code rest side hs hm hj hstaged hne hmark badSource badCopy
  have hsource (j : Nat) :
      (readWord Config.readDisturbance s.mem (s.reads + 2 * j) source (BitVec.ofNat 10 j)).faulty = false → ¬ badSource j :=
    Bool.eq_false_iff.1
  have hcopy (j : Nat) : (Config.readDisturbance (s.reads + 2 * j + 1)).isSome = false → ¬ badCopy j := by
    intro hgood hbad
    exact hbad (Option.isSome_eq_false_iff.1 hgood |> Option.isNone_iff_eq_none.1)
  obtain ⟨_, _, helsewhere⟩ := copyFrom_memory Config.readDisturbance source side.bank s.mem 0 s.reads 1024
  have hcases := copyFrom_cases Config.readDisturbance hne hm 0 s.reads 1024
  simp only [Nat.zero_add] at hcases
  obtain ⟨hgood, m, he⟩ | ⟨i, hi, hgood, hbad, m, he⟩ | ⟨i, hi, hgood, hread, hbad, m, he⟩ := hcases
  · rw [he] at helsewhere
    refine ⟨m, fun b i hb => helsewhere b i hb, .inl ⟨fun i hi => ?_, fun i => ?_, ?_⟩⟩
    · exact ⟨hsource i (hgood i hi).1, hcopy i (hgood i hi).2⟩
    · exact (copyFrom_copied hne hm (by omega) he i).trans (if_pos ⟨by omega, i.isLt⟩)
    · exact takeStep_some hs (endCopy_copied hj hstaged he)
  · rw [he] at helsewhere
    refine ⟨m, fun b i hb => helsewhere b i hb, .inr (.inl ⟨i, hi, fun j hj => ?_, hbad, ?_⟩)⟩
    · exact ⟨hsource j (hgood j hj).1, hcopy j (hgood j hj).2⟩
    · exact takeStep_some hs (endCopy_sourceFault hj hstaged hmark he)
  · rw [he] at helsewhere
    refine ⟨m, fun b i hb => helsewhere b i hb, .inr (.inr ⟨i, hi, fun j hj => ?_, hsource i hread, ?_, ?_⟩)⟩
    · exact ⟨hsource j (hgood j hj).1, hcopy j (hgood j hj).2⟩
    · exact Option.isSome_iff_ne_none.1 hbad
    · exact takeStep_some hs (endCopy_destFault hj hstaged he)

/-! ### CHECK (R52, R53) -/

theorem endCheck_sound {s : State} {h : Handle} {expected crc : Word} {keyCount next : Nat} {tag code : Byte}
    {rest : List Job} {side : Side} (hj : s.jobs = ⟨.check h expected keyCount, tag, code⟩ :: rest)
    (hs : (s.banks.record h).staged = some side)
    (he : scanFrom Config.readDisturbance s.mem side.bank 0 s.reads crc32Start 1024 = .sound crc next) :
    endCheck s = some (
      if crc = expected then
        { s with
          jobs := rest, reads := next,
          banks := s.banks.modify h fun r =>
            { r with staged := some { side with keyCount := keyCount }, stagedState := .loaded } }.withReply tag code .ok
          ([handleByte h, 0, 0, 0] ++ bytes32 crc)
      else
        { s with
          jobs := rest, reads := next,
          banks := s.banks.modify h fun r => { r with stagedState := .opened } }.withReply tag code .mismatch
          ([handleByte h, 0, 0, 0] ++ bytes32 crc)) := by
  rw [endCheck, hj]
  simp only [hs, Option.map_some, Config.wordsPerBank, he, State.endJob, hj, List.tail_cons,
    BankMap.finishStaged_eq _ _ hs]
  rfl

theorem endCheck_fault {s : State} {h : Handle} {expected : Word} {keyCount next i : Nat} {tag code : Byte}
    {rest : List Job} {side : Side} (hj : s.jobs = ⟨.check h expected keyCount, tag, code⟩ :: rest)
    (hs : (s.banks.record h).staged = some side)
    (he : scanFrom Config.readDisturbance s.mem side.bank 0 s.reads crc32Start 1024 = .faultAt i next) :
    endCheck s = some (({ s with
        jobs := rest, reads := next,
        banks := { (s.banks.modify h fun r => { r with staged := none, stagedState := .none }) with
          quarantine := s.banks.quarantine ++ [side.bank] } }.latch 0x200).withReply
      tag code .fault ([handleByte h, bankByte side.bank] ++ bytes16 (BitVec.ofNat 16 i) ++ zeros 4)) := by
  rw [endCheck, hj]
  simp only [hs, Option.map_some, Config.wordsPerBank, he, State.endJob, hj, List.tail_cons,
    BankMap.quarantineStaged_eq hs, State.raise_eq_latch]
  rfl

/-- Settles O42: by how the pass ends, from `scanFrom_cases`, and by whether the CRC-32 is the expected one. -/
theorem checkEndJudgesBank : Obligations.CheckEndJudgesBank := by
  intro s h expected keyCount tag code rest side hs hj hstaged crc bad
  have hcases := scanFrom_cases Config.readDisturbance s.mem side.bank 0 s.reads crc32Start 1024
  simp only [Nat.zero_add] at hcases
  obtain ⟨hgood, he⟩ | ⟨i, hi, hgood, hbad, he⟩ := hcases
  · have hend := endCheck_sound hj hstaged he
    have hsound (i : Nat) (hi : i < 1024) : ¬ bad i := Bool.eq_false_iff.1 (hgood i hi)
    by_cases hcrc : crc = expected
    · exact .inl ⟨hsound, hcrc, takeStep_some hs (hend.trans (congrArg some (if_pos hcrc)))⟩
    · exact .inr (.inl ⟨hsound, hcrc, takeStep_some hs (hend.trans (congrArg some (if_neg hcrc)))⟩)
  · exact .inr (.inr ⟨i, hi, fun j hj => Bool.eq_false_iff.1 (hgood j hj), hbad,
      takeStep_some hs (endCheck_fault hj hstaged he)⟩)

/-! ### SCRUB (R54) -/

theorem endScrub_sound {s : State} {bank : Bank} {crc : Word} {next : Nat} {tag code : Byte} {rest : List Job}
    (hj : s.jobs = ⟨.scrub bank, tag, code⟩ :: rest)
    (he : scanFrom Config.readDisturbance (zeroWords s.mem bank 1024) bank 0 s.reads crc32Start 1024 = .sound crc next) :
    endScrub s = some ({ s with
        jobs := rest, mem := zeroWords s.mem bank 1024, reads := next, banks := { s.banks with
          quarantine := s.banks.quarantine.erase bank, free := s.banks.free ++ [bank] } }.withReply tag code .ok
      [bankByte bank, 0, 0, 0]) := by
  rw [endScrub, hj]
  simp only [Config.wordsPerBank, he, State.endJob, hj, List.tail_cons]
  rfl

theorem endScrub_fault {s : State} {bank : Bank} {next i : Nat} {tag code : Byte} {rest : List Job}
    (hj : s.jobs = ⟨.scrub bank, tag, code⟩ :: rest)
    (he : scanFrom Config.readDisturbance (zeroWords s.mem bank 1024) bank 0 s.reads crc32Start 1024 = .faultAt i next) :
    endScrub s = some (({ s with
        jobs := rest, mem := zeroWords s.mem bank 1024, reads := next, banks := { s.banks with
          quarantine := s.banks.quarantine.erase bank, withdrawn := s.banks.withdrawn ++ [bank] } }.latch 0x200).withReply
      tag code .fault ([bankByte bank, 0] ++ bytes16 (BitVec.ofNat 16 i))) := by
  rw [endScrub, hj]
  simp only [Config.wordsPerBank, he, State.endJob, hj, List.tail_cons, State.raise_eq_latch]
  rfl

/-- A word of a zeroed bank reads back with a fault only when the read is disturbed (R22, R54). -/
theorem readWord_zeroed {m : Memory} (hm : m.wf) (bank : Bank) (n : Nat) (i : Comp) :
    (readWord Config.readDisturbance (zeroWords m bank 1024) n bank i).faulty = (Config.readDisturbance n).isSome := by
  rw [← readWord_written hm Config.readDisturbance n bank i Triple.zero]
  exact congrArg ReadResult.faulty (readWord_congr
    ((at_zeroWords hm bank le_rfl i.isLt).trans (at_writeWord_same hm bank i Triple.zero).symm))

/-- Settles O43: by how the pass ends, from `scanFrom_cases`; a read-back is faulty only when it is disturbed. -/
theorem scrubEndReturnsOrWithdrawsBank : Obligations.ScrubEndReturnsOrWithdrawsBank := by
  intro s bank tag code rest hs hm hj bad
  have hcases := scanFrom_cases Config.readDisturbance (zeroWords s.mem bank 1024) bank 0 s.reads crc32Start 1024
  simp only [Nat.zero_add, readWord_zeroed hm] at hcases
  have hread (i : Nat) (h : (Config.readDisturbance (s.reads + i)).isSome = false) : ¬ bad i := fun hbad =>
    hbad (Option.isNone_iff_eq_none.1 (Option.isSome_eq_false_iff.1 h))
  refine ⟨zeroWords s.mem bank 1024, fun i => at_zeroWords hm _ le_rfl i.isLt,
    fun b i hb => at_zeroWords_otherBank _ hb _ i, ?_⟩
  obtain ⟨hgood, he⟩ | ⟨i, hi, hgood, hbad, he⟩ := hcases
  · exact .inl ⟨fun i hi => hread i (hgood i hi), takeStep_some hs (endScrub_sound hj he)⟩
  · exact .inr ⟨i, hi, fun j hj => hread j (hgood j hj), Option.isSome_iff_ne_none.1 hbad,
      takeStep_some hs (endScrub_fault hj he)⟩

end Sys2Proof.Machine
end

section
/-! The return lane (R138, R155, R160, R162, R165): a packet taken from downstream, a message begun and sent, and the bytes of the
part's own messages. -/

namespace Sys2Proof.Machine

/-! ### RETURN_PACKET (R160) -/

theorem returnFillSound_iff (bytes : List Byte) :
    returnFillSound bytes = true ↔ crcCorrect bytes = true ∧ bytes.head? = some 0x00 := by
  rw [returnFillSound, Bool.and_eq_true, beq_iff_eq]
  exact Iff.rfl

theorem returnMessageSound_iff (bytes : List Byte) :
    returnMessageSound bytes = true ↔ crcCorrect bytes = true ∧
      ((bytes.head? = some 0x40 ∧ 8 ≤ bytes.length ∧ bytes.length ≤ 88) ∨
        (bytes.head? = some 0x41 ∧ bytes.length = 22)) := by
  simp only [returnMessageSound, Bool.and_eq_true, Bool.or_eq_true, beq_iff_eq, decide_eq_true_iff, and_assoc]
  exact Iff.rfl

/-- Settles O37: by the length and the grant that remains; soundness by `returnFillSound_iff` and `returnMessageSound_iff`. -/
theorem returnPacketRelayedOrConsumed : Obligations.ReturnPacketRelayedOrConsumed := by
  intro s bytes hs counted taken message
  have hexec : exec (.returnPacket bytes) s = .next (takeReturn bytes s).reportEvents :=
    takeStep_some (event := fun s => some (takeReturn bytes s)) hs rfl
  have hcounted (u : State) : u.linkError = counted u := u.linkError_eq_latch
  rw [hexec, takeReturn]
  by_cases hfill : bytes.length = 3
  · rw [if_pos hfill, if_pos hfill]
    simp only [State.linkErrorUnless, returnFillSound_iff, hcounted]
  rw [if_neg hfill, if_neg hfill]
  by_cases hroom : (s.ret.downGrant - s.ret.downReceived).toNat = 0
  · rw [if_pos hroom, if_pos (show s.downRoom = 0 from hroom), hcounted]
  · rw [if_neg hroom, if_neg (show ¬ s.downRoom = 0 from hroom)]
    simp only [State.linkErrorUnless, returnMessageSound_iff, hcounted]
    rfl

/-! ### MESSAGE_BEGUN (R165) -/

theorem State.upCredits_eq_zero (s : State) : s.upCredits = 0 ↔ s.ret.upGrant - s.ret.upSent = 0 := by
  rw [State.upCredits]
  bv_omega

theorem State.nextQueue_none {s : State} (ho : s.ret.own = []) (hp : s.ret.pass = []) : s.nextQueue = none := by
  simp only [State.nextQueue, ho, hp]

/-- The own queue is served when it alone holds messages, or the pass queue was served last. -/
theorem State.nextQueue_own {s : State} (ho : s.ret.own ≠ []) (h : s.ret.pass = [] ∨ s.ret.lastServed = .pass) :
    s.nextQueue = some .own := by
  obtain ⟨first, rest, hown⟩ := List.exists_cons_of_ne_nil ho
  cases hpass : s.ret.pass with
  | nil => simp only [State.nextQueue, hown, hpass]
  | cons m more =>
    have hserved := h.resolve_left (by simp [hpass])
    simp only [State.nextQueue, hown, hpass, hserved]

theorem State.nextQueue_pass {s : State} (hp : s.ret.pass ≠ []) (h : s.ret.own = [] ∨ s.ret.lastServed = .own) :
    s.nextQueue = some .pass := by
  obtain ⟨first, rest, hpass⟩ := List.exists_cons_of_ne_nil hp
  cases hown : s.ret.own with
  | nil => simp only [State.nextQueue, hown, hpass]
  | cons m more =>
    have hserved := h.resolve_left (by simp [hown])
    simp only [State.nextQueue, hown, hpass, hserved]

/-- A message is not begun while one is sent, without credit, or with both queues empty. -/
theorem beginNext_none {s : State}
    (h : s.ret.sending ≠ none ∨ s.ret.upGrant - s.ret.upSent = 0 ∨ (s.ret.own = [] ∧ s.ret.pass = [])) :
    beginNext s = none := by
  rw [beginNext]
  split_ifs with hready
  · obtain ⟨hidle, hcredit⟩ := hready
    obtain hsending | hnone | ⟨hown, hpass⟩ := h
    · exact absurd hidle hsending
    · rw [← State.upCredits_eq_zero] at hnone; omega
    · rw [State.nextQueue_none hown hpass]; rfl
  · rfl

theorem beginNext_queue {s : State} {q : LaneQueue} (hidle : s.ret.sending = none)
    (hcredit : s.ret.upGrant - s.ret.upSent ≠ 0) (hq : s.nextQueue = some q) :
    beginNext s = some (s.beginMessage q) := by
  have hcredits : 0 < s.upCredits := Nat.pos_of_ne_zero fun h => hcredit (s.upCredits_eq_zero.1 h)
  rw [beginNext, if_pos ⟨hidle, hcredits⟩, hq]
  rfl

/-! ### MESSAGE_SENT (R165) -/

theorem endMessage_none {s : State} (h : s.ret.sending = none) : endMessage s = none := by rw [endMessage, h]

theorem endMessage_reply {s : State} {r : Reply} {rest : List OwnMessage} (h : s.ret.sending = some .own)
    (ho : s.ret.own = .reply r :: rest) :
    endMessage s = some ({ s with
      ret := { s.ret with own := rest, sending := none }, cmd := { s.cmd with slots := s.cmd.slots - 1 } }.sentUp r.packet) := by
  rw [endMessage, h]
  simp only [ho]
  rfl

theorem endMessage_event {s : State} {e : EventMessage} {rest : List OwnMessage} (h : s.ret.sending = some .own)
    (ho : s.ret.own = .event e :: rest) :
    endMessage s = some ({ s with ret := { s.ret with own := rest, sending := none } }.sentUp e.packet) := by
  rw [endMessage, h]
  simp only [ho]
  rfl

theorem endMessage_relayed {s : State} {m : List Byte} {rest : List (List Byte)} (h : s.ret.sending = some .pass)
    (hp : s.ret.pass = m :: rest) :
    endMessage s = some ({ s with
      ret := { s.ret with pass := rest, sending := none, downGrant := s.ret.downGrant + 1 }, creditDue := true }.sentUp m) := by
  rw [endMessage, h]
  simp only [hp]
  rfl

theorem endMessage_uncounted {s : State} {bytes : List Byte} (h : s.ret.sending = some (.uncounted bytes)) :
    endMessage s = some ({ s with ret := { s.ret with sending := none } }.sentUp bytes) := by
  rw [endMessage, h]
  rfl

theorem returnFiller_eq : returnFiller = [0x00, 0xE1, 0xF0] := by decide

/-- While no message is sent the lane carries return FILL (R165). -/
theorem State.returnLane_idle {s : State} (hs : s.resetHeld = false) (h : s.ret.sending = none) :
    s.returnLane = some [0x00, 0xE1, 0xF0] := by
  simp only [State.returnLane, hs, State.sendingBytes, h, Option.getD_none, returnFiller_eq, Bool.false_eq_true, if_false]

/-- Settles O38: the bytes by the layouts written out, the lane by what it is sending. -/
theorem messagesBegunAndSent : Obligations.MessagesBegunAndSent := by
  refine ⟨⟨fun r => rfl, fun e => rfl, by decide, by decide, by decide, by decide, by decide⟩, fun s hs => ?_⟩
  refine ⟨State.returnLane_idle hs, fun h => takeStep_absent (beginNext_none h),
    fun h => takeStep_absent (endMessage_none h), fun hidle hcredit => ⟨fun ho hserved => ?_, fun hp hserved => ?_⟩,
    fun r rest h ho => ?_, fun e rest h ho => ?_, fun m rest h hp => ?_, fun bytes h => ?_⟩
  · exact takeStep_some hs (beginNext_queue hidle hcredit (State.nextQueue_own ho hserved))
  · exact takeStep_some hs (beginNext_queue hidle hcredit (State.nextQueue_pass hp hserved))
  · exact takeStep_some hs (endMessage_reply h ho)
  · exact takeStep_some hs (endMessage_event h ho)
  · exact takeStep_some hs (endMessage_relayed h hp)
  · exact takeStep_some hs (endMessage_uncounted h)

end Sys2Proof.Machine
end

section
/-! The EV (R155, R157, R172): when it is due, what it carries, that no step leaves one due, and the claims of a frame boundary. -/

namespace Sys2Proof.Machine

/-! ### When an EV is due (R157) -/

/-- An unmasked, unreported kind is latched and the EV slot is free. -/
def State.EventDue (s : State) : Prop :=
  s.events.latched &&& ~~~s.events.masked &&& ~~~s.events.reported ≠ 0 ∧ ∀ m ∈ s.ret.own, m.isEvent = false

theorem State.eventDue_iff (s : State) : s.eventDue = true ↔ s.EventDue := by
  rw [State.eventDue, Bool.and_eq_true, bne_iff_ne, State.eventSlotTaken, Bool.not_eq_true', List.any_eq_false]
  simp only [State.EventDue, Bool.not_eq_true]

theorem State.reportEvents_due {s : State} (h : s.EventDue) : s.reportEvents = s.queueEvent :=
  if_pos (s.eventDue_iff.2 h)

theorem State.eventDue_eq_false {s : State} (h : ¬ s.EventDue) : s.eventDue = false :=
  Bool.eq_false_iff.2 fun hdue => h (s.eventDue_iff.1 hdue)

/-! ### The handles marked (R35, Table 11.8-1) -/

theorem HandleRecord.marked_iff (r : HandleRecord) :
    r.marked = true ↔ ∃ side : Side, side.mark = true ∧
      (r.active = some side ∨ r.staged = some side ∨ r.retained = some side) := by
  simp only [HandleRecord.marked, List.any_cons, List.any_nil, Bool.or_false, Bool.or_eq_true, Option.any_eq_true]
  constructor
  · rintro (⟨side, hside, hmark⟩ | ⟨side, hside, hmark⟩ | ⟨side, hside, hmark⟩)
    · exact ⟨side, hmark, .inl hside⟩
    · exact ⟨side, hmark, .inr (.inl hside)⟩
    · exact ⟨side, hmark, .inr (.inr hside)⟩
  · rintro ⟨side, hmark, hside | hside | hside⟩
    · exact .inl ⟨side, hside, hmark⟩
    · exact .inr (.inl ⟨side, hside, hmark⟩)
    · exact .inr (.inr ⟨side, hside, hmark⟩)

/-- The bits of handles set one after the other (Table 11.8-1). -/
theorem foldl_handleBits_getLsbD (p : Handle → Bool) (h : Handle) (l : List Handle) (acc : Half) :
    (l.foldl (fun acc k => if p k then acc ||| (1#16 <<< (k.val + 1)) else acc) acc).getLsbD (h.val + 1) =
      (acc.getLsbD (h.val + 1) || (decide (h ∈ l) && p h)) := by
  have hbit : ∀ k h : Handle, (1#16 <<< (k.val + 1)).getLsbD (h.val + 1) = decide (h = k) := by decide
  induction l generalizing acc with
  | nil => simp
  | cons k l ih =>
    rw [List.foldl_cons, ih]
    by_cases hk : h = k
    · subst hk
      cases hp : p h with
      | true => simp [hbit]
      | false => simp
    · cases hp : p k with
      | true => simp [hbit, hk]
      | false => simp [hk]

theorem BankMap.markedHandles_getLsbD (b : BankMap) (h : Handle) :
    b.markedHandles.getLsbD (h.val + 1) = b.handles[h.val].marked := by
  rw [BankMap.markedHandles, foldl_handleBits_getLsbD (fun k => b.handles[k.val].marked)]
  simp [mem_allHandles]

/-! ### No step leaves an EV due (R157) -/

theorem step_settles {s t : State} (h : step s = .next t) (settled : s.eventDue = false) : t.eventDue = false := by
  obtain rfl | ⟨i, rest, _, rfl | ⟨_, rfl⟩ | rfl | ⟨u, _, rfl⟩⟩ := step_cases h
  · exact settled
  · exact settled
  · exact (eventLaw_powerOn _).settled
  · exact settled
  · exact u.reportEvents_settled

/-! ### The claims of a frame boundary (R125, R157) -/

/-- Two sets of kinds are the same outside a set when they agree on every kind outside it. -/
theorem kinds_eq_outside {a b mask : BitVec 11} (h : ∀ i < 11, mask.getLsbD i = false → a.getLsbD i = b.getLsbD i) :
    a &&& ~~~mask = b &&& ~~~mask := by
  refine BitVec.eq_of_getLsbD_eq fun i hi => ?_
  rw [BitVec.getLsbD_and, BitVec.getLsbD_and, BitVec.getLsbD_not]
  cases hm : mask.getLsbD i with
  | true => simp
  | false => rw [h i hi hm]

/-- The lane receiver's claim at a frame boundary, and the test of R157 at its end. -/
def State.boundaryReceived (s : State) (frame width height : Half) : State :=
  ({ s with rx := { s.rx with
      state := .frame, boundarySeen := true, lastFrame := frame, lastBoundary := frame, width := width, height := height,
      linesTaken := 0, broken := false, timer := some s.rx.setting } }.latch s.rx.foundKinds).reportEvents

/-- The pixel path's claim at a frame boundary, and the test of R157 at its end. -/
def State.boundarySwitched (s : State) (frame width height : Half) : State :=
  (s.boundaryReceived frame width height).applyPendingMode.reportEvents

/-- A frame boundary is the claims of the receiver, the pixel path, the commit unit and the signature unit, in that order. -/
theorem takeFs_claims {s : State} (frame width height : Half) (h : s.rx.state ≠ .frame) :
    takeFs frame width height s =
      ((s.boundarySwitched frame width height).commitBoundary frame).reportEvents.signatureFrameStart.forward
        (encodePacket (.fs frame width height)) := by
  rw [takeFs_outsideFrame _ _ _ h, State.signalPresent_eq_seen]
  rfl

/-- After the signature unit's claim no EV is due: it changes nothing an EV looks at. -/
theorem takeFs_settled {s : State} (frame width height : Half) (h : s.rx.state ≠ .frame) :
    (takeFs frame width height s).reportEvents = takeFs frame width height s := by
  refine State.reportEvents_of_settled ?_
  rw [takeFs_claims _ _ _ h]
  exact State.reportEvents_settled _

theorem State.boundarySwitched_eq (s : State) (frame width height : Half) :
    s.boundarySwitched frame width height = (match s.pix.pendingMode with
      | none => s.boundaryReceived frame width height
      | some m => { s.boundaryReceived frame width height with pix := ⟨m, none⟩ }.latch
          (if m = Mode.fallback then 0x100 else 0)).reportEvents := by
  have hpix : (s.boundaryReceived frame width height).pix = s.pix := by simp [State.boundaryReceived]
  rw [State.boundarySwitched]
  cases hm : s.pix.pendingMode with
  | none => rw [State.applyPendingMode_none (by rw [hpix, hm])]
  | some m =>
    rw [State.applyPendingMode_some (by rw [hpix, hm]), State.raiseIf_eq_latch]
    simp only [decide_eq_true_eq, EventKind.set_fallbackEntered]

/-- The commit unit's claim leaves the return transmitter, and of the kinds changes those latched alone. -/
theorem State.commitBoundary_ret (s : State) (f : Half) : (s.commitBoundary f).ret = s.ret := by
  rw [State.commitBoundary_eq]

theorem State.commitBoundary_events (s : State) (f : Half) :
    (s.commitBoundary f).events = { s.events with latched := (s.commitBoundary f).events.latched } := by
  rw [State.commitBoundary_eq]

/-- What an EV queued in the commit unit's claim carries is that of the state after the whole boundary. -/
theorem takeFs_eventInCommitClaim {s t : State} {frame width height : Half} (h : s.rx.state ≠ .frame)
    (ht : t = takeFs frame width height s) :
    let applied : State := { t with
      ret := (s.boundarySwitched frame width height).ret,
      events := { t.events with reported := (s.boundarySwitched frame width height).events.reported } }
    t.ret = applied.reportEvents.ret ∧ t.events = applied.reportEvents.events := by
  intro applied
  have hclaims := takeFs_claims frame width height h
  generalize hcommit : (s.boundarySwitched frame width height).commitBoundary frame = u at hclaims
  have hret : t.ret = u.reportEvents.ret := by rw [ht, hclaims]; rfl
  have hevents : t.events = u.reportEvents.events := by rw [ht, hclaims]; rfl
  have hu : u.ret = (s.boundarySwitched frame width height).ret := by rw [← hcommit, State.commitBoundary_ret]
  have hreported : u.events.reported = (s.boundarySwitched frame width height).events.reported := by
    rw [← hcommit, State.commitBoundary_events]
  have hlatched : t.events.latched = u.events.latched := by rw [hevents, State.reportEvents_latched]
  have hmasked : t.events.masked = u.events.masked := by rw [hevents, State.reportEvents_masked]
  have hmessage : t.eventMessage = u.eventMessage := by
    rw [ht, hclaims, ← u.reportEvents_eventMessage]
    rfl
  have happlied : applied.events = u.events := by
    show EventRegister.mk _ _ _ = EventRegister.mk _ _ _
    rw [hlatched, hmasked, hreported]
  obtain ⟨hsameRet, hsameEvents⟩ := State.reportEvents_congr happlied hu.symm hmessage
  exact ⟨hret.trans hsameRet.symm, hevents.trans hsameEvents.symm⟩

/-- Settles O39: the test of R157 by `State.eventDue_iff`, the steps by `step_settles`, a boundary claim by claim. -/
theorem eventQueuedWithSnapshot : Obligations.EventQueuedWithSnapshot := by
  refine ⟨fun s => ⟨fun hdue => ⟨State.reportEvents_due hdue, fun hs => ?_⟩, fun hdue => ⟨?_, ?_⟩, fun h => ?_⟩,
    fun s t hstep hdue => ?_, fun s frame width height hs hout hp => ?_⟩
  · exact (takeStep_some (event := fun s => if s.eventDue then some s else none) hs
      (if_pos (s.eventDue_iff.2 hdue))).trans (congrArg _ (State.reportEvents_due hdue))
  · exact State.reportEvents_of_settled (State.eventDue_eq_false hdue)
  · refine takeStep_absent (event := fun s => if s.eventDue then some s else none) (if_neg ?_)
    exact fun h => hdue (s.eventDue_iff.1 h)
  · rw [BankMap.markedHandles_getLsbD, HandleRecord.marked_iff]
  · intro hdueAfter
    have hsettled := step_settles hstep (State.eventDue_eq_false hdue)
    rw [(t.eventDue_iff).2 hdueAfter] at hsettled
    cases hsettled
  · intro received switched
    have hswitched : s.boundarySwitched frame width height = switched := s.boundarySwitched_eq frame width height
    have hcommit : (s.boundarySwitched frame width height).commit = s.commit := by
      rw [State.boundarySwitched, State.reportEvents_commit, State.applyPendingMode_eq]
      simp [State.boundaryReceived]
    have hclaims := takeFs_claims frame width height hout
    refine ⟨takeFs frame width height s, ?_, ?_, fun hidle => ?_, ?_⟩
    · rw [exec_fs_good hs hp, takeFs_settled frame width height hout]
    · rw [← hswitched]
      exact takeFs_eventInCommitClaim hout rfl
    · have hstill : (s.boundarySwitched frame width height).commitBoundary frame = s.boundarySwitched frame width height := by
        refine State.commitBoundary_still frame ?_
        rw [hcommit]
        obtain hidle | hguarding := hidle
        · exact .inl hidle
        · exact .inr (.inl hguarding)
      have hsettled : switched.reportEvents = switched := by
        rw [← hswitched]
        exact State.reportEvents_of_settled (State.reportEvents_settled _)
      rw [hclaims, hstill, hswitched, hsettled]
      exact ⟨rfl, rfl⟩
    · rw [← hswitched, hclaims]
      refine kinds_eq_outside fun i _ hi => ?_
      show ((s.boundarySwitched frame width height).commitBoundary frame).reportEvents.events.latched.getLsbD i = _
      rw [State.reportEvents_latched, State.commitBoundary_latched]
      · rintro rfl; exact absurd hi (by decide)
      · rintro rfl; exact absurd hi (by decide)

end Sys2Proof.Machine
end

section
/-! Packets on the forward lane (R121 to R124, R175, R176): a packet written out and read back, the class of a packet as it
arrived, and what a bad or malformed one does. -/

namespace Sys2Proof.Machine

/-! ### Fields of two and four bytes (R175) -/

theorem bytes16_append (a b : Byte) : bytes16 (a ++ b : BitVec 16) = [a, b] := by
  rw [bytes16, BitVec.extractLsb'_append_eq_left, BitVec.extractLsb'_append_eq_right]

theorem bytes32_append (a b c d : Byte) : bytes32 (a ++ b ++ c ++ d : BitVec 32) = [a, b, c, d] := by
  have ha : (a ++ b ++ c ++ d : BitVec 32).extractLsb' 24 8 = a := by
    rw [BitVec.extractLsb'_append_eq_of_le (by decide), BitVec.extractLsb'_append_eq_of_le (by decide)]
    exact BitVec.extractLsb'_append_eq_left
  have hb : (a ++ b ++ c ++ d : BitVec 32).extractLsb' 16 8 = b := by
    rw [BitVec.extractLsb'_append_eq_of_le (by decide), BitVec.extractLsb'_append_eq_of_le (by decide)]
    exact BitVec.extractLsb'_append_eq_right
  have hc : (a ++ b ++ c ++ d : BitVec 32).extractLsb' 8 8 = c := by
    rw [BitVec.extractLsb'_append_eq_of_le (by decide)]
    exact BitVec.extractLsb'_append_eq_right
  have hd : (a ++ b ++ c ++ d : BitVec 32).extractLsb' 0 8 = d := BitVec.extractLsb'_append_eq_right
  rw [bytes32, ha, hb, hc, hd]

theorem append_bytes_word (x : Word) :
    (x.extractLsb' 24 8 ++ x.extractLsb' 16 8 ++ x.extractLsb' 8 8 ++ x.extractLsb' 0 8 : BitVec 32) = x :=
  (wordAt_cons4_zero _ _ _ _ []).symm.trans (wordAt_bytes32 x [])

/-- Pixels written out are read back. -/
theorem pixelWords_flatMap (ws : List Word) : pixelWords (ws.flatMap bytes32) = some ws := by
  induction ws with
  | nil => rfl
  | cons w ws ih =>
    rw [List.flatMap_cons, bytes32]
    simp only [List.cons_append, List.nil_append, pixelWords, ih, Option.map_some, append_bytes_word]

/-- Pixels read are written out again. -/
theorem flatMap_of_pixelWords {p : List Byte} {ws : List Word} (h : pixelWords p = some ws) : ws.flatMap bytes32 = p := by
  induction p using pixelWords.induct generalizing ws with
  | case1 => cases h; rfl
  | case2 a b c d rest ih =>
    simp only [pixelWords, Option.map_eq_some_iff] at h
    obtain ⟨more, hmore, rfl⟩ := h
    rw [List.flatMap_cons, ih hmore, bytes32_append]
    rfl
  | case3 p hne hne' =>
    rw [pixelWords] at h
    · cases h
    all_goals assumption

theorem length_of_pixelWords {p : List Byte} {ws : List Word} (h : pixelWords p = some ws) : p.length = 4 * ws.length := by
  have hbytes (w : Word) : (bytes32 w).length = 4 := rfl
  rw [← flatMap_of_pixelWords h, List.length_flatMap, List.map_congr_left fun w _ => hbytes w]
  simp [Nat.mul_comm]

/-! ### The content of a packet (Table 11.2-2) -/

/-- What a content is read as, when it is read. -/
def readContent : List Byte → Option ForwardPacket
  | [] => none
  | kind :: rest => parseContent kind rest

theorem readContent_contentOf {p : ForwardPacket} (h : fieldsInRange p = true) : readContent (contentOf p) = some p := by
  cases p with
  | fs frame width height =>
    simp only [contentOf, bytes16, readContent, parseContent, List.cons_append, List.nil_append, if_true, append_bytes_half]
  | ln line pixels =>
    have hcount : pixels.length ≤ 4096 := by
      simp only [fieldsInRange, Bool.and_eq_true, decide_eq_true_eq] at h
      exact h.2
    have hlength : (BitVec.ofNat 16 pixels.length).toNat = pixels.length := by rw [BitVec.toNat_ofNat]; omega
    have hkind : ¬ kindLn = kindFs := by decide
    simp only [contentOf, bytes16, readContent, parseContent, List.cons_append, List.nil_append, if_neg hkind, if_true,
      append_bytes_half, pixelWords_flatMap, hlength]
  | fe linesSent =>
    have hfs : ¬ kindFe = kindFs := by decide
    have hln : ¬ kindFe = kindLn := by decide
    simp only [contentOf, bytes16, readContent, parseContent, if_neg hfs, if_neg hln, if_true, append_bytes_half]
  | cm c =>
    have hpayload : c.payload.length ≤ 136 := of_decide_eq_true h
    have hlength : (BitVec.ofNat 8 c.payload.length).toNat = c.payload.length := by rw [BitVec.toNat_ofNat]; omega
    have hfs : ¬ kindCm = kindFs := by decide
    have hln : ¬ kindCm = kindLn := by decide
    have hfe : ¬ kindCm = kindFe := by decide
    simp only [contentOf, readContent, parseContent, if_neg hfs, if_neg hln, if_neg hfe, if_true, hlength]
  | cr total => rfl
  | lr => rfl
  | fill => rfl

theorem contentOf_of_readContent {content : List Byte} {p : ForwardPacket} (h : readContent content = some p) :
    contentOf p = content := by
  cases content with
  | nil => cases h
  | cons kind rest =>
    simp only [readContent, parseContent] at h
    split at h
    · next hkind =>
      split at h
      · cases h; rw [hkind, contentOf, bytes16_append, bytes16_append, bytes16_append]; rfl
      · cases h
    split at h
    · next hkind =>
      split at h
      · split at h
        · next hwords =>
          split at h
          · next hlength =>
            cases h
            rw [hkind, contentOf, ← hlength, BitVec.ofNat_toNat, BitVec.setWidth_eq, bytes16_append, bytes16_append,
              flatMap_of_pixelWords hwords]
            rfl
          · cases h
        · cases h
      · cases h
    split at h
    · next hkind =>
      split at h
      · cases h; rw [hkind, contentOf, bytes16_append]
      · cases h
    split at h
    · next hkind =>
      split at h
      · split at h
        · next hlength =>
          cases h
          rw [hkind, contentOf]
          dsimp only
          rw [← hlength, BitVec.ofNat_toNat, BitVec.setWidth_eq]
        · cases h
      · cases h
    split at h
    · next hkind =>
      split at h
      · cases h; rw [hkind, contentOf]
      · cases h
    split at h
    · next hkind =>
      split at h
      · cases h; rw [hkind, contentOf]
      · cases h
    split at h
    · next hkind =>
      split at h
      · cases h; rw [hkind, contentOf]
      · cases h
    · cases h

/-! ### The class of a packet (R121) -/

theorem classifyContent_good_iff (content : List Byte) (p : ForwardPacket) :
    classifyContent content = .good p ↔ readContent content = some p ∧ fieldsInRange p = true := by
  cases content with
  | nil => simp [classifyContent, readContent]
  | cons kind rest =>
    simp only [classifyContent, readContent]
    cases parseContent kind rest with
    | none => simp
    | some q =>
      dsimp only
      split_ifs with hrange
      · simp only [PacketClass.good.injEq, Option.some.injEq]
        exact ⟨fun h => ⟨h, h ▸ hrange⟩, fun h => h.1⟩
      · simp only [Option.some.injEq, false_iff, not_and]
        rintro rfl
        exact hrange

theorem packetContent_withCrc (content : List Byte) : packetContent (withCrc content) = content := by
  simp [packetContent, withCrc, bytes16]

theorem crcCorrect_withCrc {content : List Byte} (h : content ≠ []) : crcCorrect (withCrc content) = true := by
  have hlength : 3 ≤ (withCrc content).length := by
    have := List.length_pos_iff.2 h
    simp only [withCrc, bytes16, List.length_append, List.length_cons, List.length_nil]
    omega
  rw [crcCorrect, packetContent_withCrc, Bool.and_eq_true, beq_iff_eq]
  exact ⟨decide_eq_true hlength, rfl⟩

theorem contentOf_ne_nil (p : ForwardPacket) : contentOf p ≠ [] := by cases p <;> exact List.cons_ne_nil _ _

/-- Settles O13: out by `readContent_contentOf`, back by `contentOf_of_readContent`. -/
theorem forwardPacketsRoundTrip : Obligations.ForwardPacketsRoundTrip := by
  refine ⟨fun p h => ?_, fun bytes p h => ?_⟩
  · rw [classify, encodePacket, crcCorrect_withCrc (contentOf_ne_nil p), if_pos rfl, packetContent_withCrc]
    exact (classifyContent_good_iff _ _).2 ⟨readContent_contentOf h, h⟩
  · rw [classify] at h
    split_ifs at h with hcrc
    obtain ⟨hread, hrange⟩ := (classifyContent_good_iff _ _).1 h
    rw [crcCorrect, Bool.and_eq_true, beq_iff_eq] at hcrc
    exact ⟨hrange, by rw [encodePacket, contentOf_of_readContent hread, hcrc.2]⟩

end Sys2Proof.Machine
end

section
/-! Bad and malformed packets (R121 to R124): the list of what makes a content malformed, tied to the packets that can be written
out, and the two rows. -/

namespace Sys2Proof.Machine

/-! ### Malformed contents (R121) -/

/-- A packet with its fields in range has a content that the list of R121 does not name. -/
theorem not_malformedContent_contentOf {p : ForwardPacket} (h : fieldsInRange p = true) : ¬ MalformedContent (contentOf p) := by
  cases p with
  | fs frame width height =>
    have hwidth : halfAt (contentOf (.fs frame width height)) 3 = width := append_bytes_half width
    have hheight : halfAt (contentOf (.fs frame width height)) 5 = height := append_bytes_half height
    have hkind : byteAt (contentOf (.fs frame width height)) 0 = 0x10 := rfl
    have hlength : (contentOf (.fs frame width height)).length = 7 := rfl
    simp only [fieldsInRange, Bool.and_eq_true, decide_eq_true_eq] at h
    simp only [MalformedContent, hkind, hlength, hwidth, hheight]
    simp
    omega
  | ln line pixels =>
    simp only [fieldsInRange, Bool.and_eq_true, decide_eq_true_eq] at h
    have hline : halfAt (contentOf (.ln line pixels)) 1 = line := append_bytes_half line
    have hcount : halfAt (contentOf (.ln line pixels)) 3 = BitVec.ofNat 16 pixels.length := append_bytes_half _
    have hpixels : (BitVec.ofNat 16 pixels.length).toNat = pixels.length := by rw [BitVec.toNat_ofNat]; omega
    have hkind : byteAt (contentOf (.ln line pixels)) 0 = 0x11 := rfl
    have hlength : (contentOf (.ln line pixels)).length = 5 + 4 * pixels.length := by
      have hwords := length_of_pixelWords (pixelWords_flatMap pixels)
      simp only [contentOf, bytes16, List.length_cons, List.length_append, List.length_nil, hwords]
      omega
    simp only [MalformedContent, hkind, hlength, hline, hcount, hpixels]
    simp [-List.length_eq_zero_iff]
    omega
  | fe linesSent =>
    have hlines : halfAt (contentOf (.fe linesSent)) 1 = linesSent := append_bytes_half linesSent
    have hkind : byteAt (contentOf (.fe linesSent)) 0 = 0x12 := rfl
    have hlength : (contentOf (.fe linesSent)).length = 3 := rfl
    simp only [fieldsInRange, decide_eq_true_eq] at h
    simp only [MalformedContent, hkind, hlength, hlines]
    simp
    omega
  | cm c =>
    have hpayload : c.payload.length ≤ 136 := of_decide_eq_true h
    have hbyte : byteAt (contentOf (.cm c)) 4 = BitVec.ofNat 8 c.payload.length := rfl
    have hsize : (BitVec.ofNat 8 c.payload.length).toNat = c.payload.length := by rw [BitVec.toNat_ofNat]; omega
    have hkind : byteAt (contentOf (.cm c)) 0 = 0x20 := rfl
    have hlength : (contentOf (.cm c)).length = 5 + c.payload.length := by
      simp only [contentOf, List.length_cons]
      omega
    simp only [MalformedContent, hkind, hlength, hbyte, hsize]
    simp
    omega
  | cr total => simp [MalformedContent, contentOf, kindCr, byteAt]
  | lr => simp [MalformedContent, contentOf, kindLr, byteAt]
  | fill => simp [MalformedContent, contentOf, kindFill, byteAt]

/-- The first five bytes of a content that has them. -/
theorem exists_five_bytes {l : List Byte} (h : 5 ≤ l.length) : ∃ a b c d e rest, l = a :: b :: c :: d :: e :: rest := by
  obtain ⟨a, l, rfl⟩ := List.exists_cons_of_length_pos (l := l) (by omega)
  rw [List.length_cons] at h
  obtain ⟨b, l, rfl⟩ := List.exists_cons_of_length_pos (l := l) (by omega)
  rw [List.length_cons] at h
  obtain ⟨c, l, rfl⟩ := List.exists_cons_of_length_pos (l := l) (by omega)
  rw [List.length_cons] at h
  obtain ⟨d, l, rfl⟩ := List.exists_cons_of_length_pos (l := l) (by omega)
  rw [List.length_cons] at h
  obtain ⟨e, l, rfl⟩ := List.exists_cons_of_length_pos (l := l) (by omega)
  exact ⟨a, b, c, d, e, l, rfl⟩

/-- A content that the list of R121 does not name is that of a packet with its fields in range. -/
theorem exists_packet_of_not_malformed {content : List Byte} (h : ¬ MalformedContent content) :
    ∃ p, contentOf p = content ∧ fieldsInRange p = true := by
  simp only [MalformedContent, not_or, not_and, not_not] at h
  obtain ⟨hkind, hshort, hcr, hfe, hfs, hln, hcm⟩ := h
  simp only [List.mem_cons, List.not_mem_nil, or_false] at hkind hshort
  obtain hkind | hkind | hkind | hkind | hkind | hkind | hkind := hkind
  · match content, hshort (.inl hkind), hkind with
    | [k], _, hkind =>
      obtain rfl : k = kindFill := hkind
      exact ⟨.fill, rfl, rfl⟩
  · obtain ⟨hlength, hwidth0, hwidth, hheight0, hheight⟩ := hfs hkind
    match content, hlength, hkind, hwidth0, hwidth, hheight0, hheight with
    | [k, f1, f0, w1, w0, h1, h0], _, hkind, hwidth0, hwidth, hheight0, hheight =>
      obtain rfl : k = kindFs := hkind
      refine ⟨.fs (f1 ++ f0) (w1 ++ w0) (h1 ++ h0), ?_, ?_⟩
      · rw [contentOf, bytes16_append, bytes16_append, bytes16_append]
        rfl
      · change ¬ (w1 ++ w0 : BitVec 16).toNat = 0 at hwidth0
        change ¬ 4096 < (w1 ++ w0 : BitVec 16).toNat at hwidth
        change ¬ (h1 ++ h0 : BitVec 16).toNat = 0 at hheight0
        change ¬ 4096 < (h1 ++ h0 : BitVec 16).toNat at hheight
        simp only [fieldsInRange, Bool.and_eq_true, decide_eq_true_eq]
        omega
  · obtain ⟨hlong, hlength, hline, hcount0, hcount⟩ := hln hkind
    obtain ⟨k, l1, l0, n1, n0, px, rfl⟩ := exists_five_bytes (Nat.not_lt.1 hlong)
    obtain rfl : k = kindLn := hkind
    change ¬ 4095 < (l1 ++ l0 : BitVec 16).toNat at hline
    change ¬ (n1 ++ n0 : BitVec 16).toNat = 0 at hcount0
    change ¬ 4096 < (n1 ++ n0 : BitVec 16).toNat at hcount
    change px.length + 1 + 1 + 1 + 1 + 1 = 5 + 4 * (n1 ++ n0 : BitVec 16).toNat at hlength
    have hwords := pixelWords_eq (n := (n1 ++ n0 : BitVec 16).toNat) (p := px) (by omega)
    have hpixels := flatMap_of_pixelWords hwords
    have hsize := length_of_pixelWords hwords
    refine ⟨.ln (l1 ++ l0) ((List.range (n1 ++ n0 : BitVec 16).toNat).map fun i => wordAt px (4 * i)), ?_, ?_⟩
    · rw [contentOf, hpixels, List.length_map, List.length_range, BitVec.ofNat_toNat, BitVec.setWidth_eq, bytes16_append,
        bytes16_append]
      rfl
    · simp only [fieldsInRange, List.length_map, List.length_range, Bool.and_eq_true, decide_eq_true_eq]
      omega
  · obtain ⟨hlength, hlines⟩ := hfe hkind
    match content, hlength, hkind, hlines with
    | [k, s1, s0], _, hkind, hlines =>
      obtain rfl : k = kindFe := hkind
      change ¬ 4096 < (s1 ++ s0 : BitVec 16).toNat at hlines
      exact ⟨.fe (s1 ++ s0), by rw [contentOf, bytes16_append], decide_eq_true (Nat.not_lt.1 hlines)⟩
  · obtain ⟨hlong, hlength, hsize⟩ := hcm hkind
    obtain ⟨k, dest, tag, code, len, payload, rfl⟩ := exists_five_bytes (Nat.not_lt.1 hlong)
    obtain rfl : k = kindCm := hkind
    change payload.length + 1 + 1 + 1 + 1 + 1 = 5 + len.toNat at hlength
    change ¬ 136 < len.toNat at hsize
    have hpayload : payload.length = len.toNat := by omega
    refine ⟨.cm ⟨dest, tag, code, payload⟩, ?_, decide_eq_true (by dsimp only; omega)⟩
    rw [contentOf]
    dsimp only
    rw [hpayload, BitVec.ofNat_toNat, BitVec.setWidth_eq]
  · match content, hcr hkind, hkind with
    | [k, total], _, hkind =>
      obtain rfl : k = kindCr := hkind
      exact ⟨.cr total, rfl, rfl⟩
  · match content, hshort (.inr hkind), hkind with
    | [k], _, hkind =>
      obtain rfl : k = kindLr := hkind
      exact ⟨.lr, rfl, rfl⟩

theorem classifyContent_ne_bad (content : List Byte) : classifyContent content ≠ .bad := by
  unfold classifyContent
  split
  · simp
  · split
    · split <;> simp
    · simp

/-- The list of R121 names exactly the contents that no packet with its fields in range has. -/
theorem malformedContent_iff (content : List Byte) :
    MalformedContent content ↔ classifyContent content = .malformed := by
  constructor
  · intro h
    cases hclass : classifyContent content with
    | malformed => rfl
    | bad => exact absurd hclass (classifyContent_ne_bad content)
    | good p =>
      obtain ⟨hread, hrange⟩ := (classifyContent_good_iff content p).1 hclass
      rw [← contentOf_of_readContent hread] at h
      exact absurd h (not_malformedContent_contentOf hrange)
  · intro h
    by_contra hgood
    obtain ⟨p, rfl, hrange⟩ := exists_packet_of_not_malformed hgood
    rw [(classifyContent_good_iff _ p).2 ⟨readContent_contentOf hrange, hrange⟩] at h
    cases h

/-! ### The class of a packet as it arrived (R121, R176) -/

set_option maxRecDepth 20000 in
/-- The check value of the CRC-16 for the nine digits (R176). -/
theorem crc16_nineDigits : crc16 [0x31, 0x32, 0x33, 0x34, 0x35, 0x36, 0x37, 0x38, 0x39] = 0x29B1 := by decide

theorem crcCorrect_iff (bytes : List Byte) :
    crcCorrect bytes = true ↔ 3 ≤ bytes.length ∧
      bytes.drop (bytes.length - 2) = bytes16 (crc16 (bytes.take (bytes.length - 2))) := by
  rw [crcCorrect, Bool.and_eq_true, decide_eq_true_iff, beq_iff_eq]
  refine and_congr_right fun _ => ?_
  rw [withCrc, packetContent]
  conv_lhs => rhs; rw [← List.take_append_drop (bytes.length - 2) bytes]
  rw [List.append_cancel_left_eq, eq_comm]

theorem classify_bad_iff (bytes : List Byte) : classify bytes = .bad ↔ ¬ crcCorrect bytes = true := by
  rw [classify]
  split_ifs with hcrc
  · simp [hcrc, classifyContent_ne_bad]
  · simp [hcrc]

theorem classify_malformed_iff (bytes : List Byte) :
    classify bytes = .malformed ↔ crcCorrect bytes = true ∧ MalformedContent (packetContent bytes) := by
  rw [classify, malformedContent_iff]
  split_ifs with hcrc
  · simp [hcrc]
  · simp [hcrc]

/-! ### The two rows (R122 to R124) -/

theorem kindReadsLn_eq (bytes : List Byte) : kindReadsLn bytes = decide (bytes.head? = some 0x11) := by
  rw [kindReadsLn, Bool.beq_eq_decide_eq]
  rfl

/-- A line whose kind alone can be read breaks the frame in progress. -/
theorem State.breakFrameIf_eq (s : State) (readsLn : Bool) :
    s.breakFrameIf readsLn = { s with rx := { s.rx with
      broken := s.rx.broken || (decide (s.rx.state = ReceiverState.frame) && readsLn) } } := by
  unfold State.breakFrameIf
  cases readsLn with
  | false => simp
  | true => by_cases hframe : s.rx.state = .frame <;> simp [hframe]

theorem takeBad_eq (bytes : List Byte) (s : State) :
    takeBad bytes s = ({ s with rx := { s.rx with
      linkErrors := saturate16 s.rx.linkErrors,
      broken := s.rx.broken || (decide (s.rx.state = ReceiverState.frame) && decide (bytes.head? = some 0x11)) } }.latch
        0x001).sentDown bytes := by
  rw [takeBad, kindReadsLn_eq, State.breakFrameIf_eq, State.linkError_eq_latch]
  rfl

theorem takeMalformed_eq (bytes : List Byte) (s : State) :
    takeMalformed bytes s = ({ s.seen with rx := { s.rx.seen with
      linkErrors := saturate16 s.rx.linkErrors,
      broken := s.rx.broken || (decide (s.rx.state = ReceiverState.frame) && decide (bytes.head? = some 0x11)) } }.latch
        0x001).sentDown bytes := by
  have hframe : decide (s.seen.rx.state = ReceiverState.frame) = decide (s.rx.state = ReceiverState.frame) :=
    decide_eq_decide.2 s.rx.seen_state_frame_iff
  rw [takeMalformed, kindReadsLn_eq, State.signalPresent_eq_seen, State.breakFrameIf_eq, State.linkError_eq_latch,
    hframe]
  rfl

/-- Settles O18: the classes by `classify_bad_iff` and `classify_malformed_iff`, the rows by `takeBad_eq` and
`takeMalformed_eq`. -/
theorem badAndMalformedPackets : Obligations.BadAndMalformedPackets := by
  refine ⟨crc16_nineDigits, fun bytes => ?_, fun s bytes hs => ⟨fun hbad => ?_, fun hmalformed => ?_⟩⟩
  · intro content correct
    have hcorrect : correct ↔ crcCorrect bytes = true := (crcCorrect_iff bytes).symm
    rw [hcorrect]
    exact ⟨classify_bad_iff bytes, classify_malformed_iff bytes⟩
  · rw [← takeBad_eq, ← takeBytes_bad s hbad]
    exact takeStep_some (event := fun s => some (takeBytes bytes s)) hs rfl
  · rw [← takeMalformed_eq, ← takeBytes_malformed s hmalformed]
    exact takeStep_some (event := fun s => some (takeBytes bytes s)) hs rfl

end Sys2Proof.Machine
end

section
/-! POWER_ON_RESET (R43, R65, R88, R119, R153, R167, R179): the power-on values, the words kept, and the lanes cut off. -/

namespace Sys2Proof.Machine

/-! ### What a power-on reset leaves -/

theorem State.powerOn_word (s : State) {b : Bank} (i : Comp) (h : s.runningBank ≠ some b) :
    s.powerOn.word b i = s.word b i := (s.stopRunning_memory).2.2 b i h

theorem State.powerOn_record (s : State) (h : Handle) :
    s.powerOn.banks.record h = ⟨none, none, none, .none, 0, false, 0⟩ := by
  show (Vector.replicate 10 HandleRecord.empty)[h.val] = _
  rw [Vector.getElem_replicate]
  rfl

/-- No boundary has been seen, so no target lies in the past (R78). -/
theorem State.targetPast_of_noBoundary {s : State} (h : s.rx.boundarySeen = false) (t : Target) : s.targetPast t = false := by
  match t with
  | .next => rfl
  | .at n => rw [State.targetPast, h, Bool.false_and]

theorem State.powerOn_forwardLane (s : State) : ForwardLaneCut s s.powerOn := s.forwardCutOff_cases

theorem State.powerOn_upOut_held {s : State} (h : s.resetHeld = true) : s.powerOn.upOut = s.upOut := by
  show s.upOut ++ s.cutOff = s.upOut
  rw [State.cutOff_held h, List.append_nil]

/-- What the return lane was sending, a return FILL when idle, is cut off (R165, R179). -/
theorem State.powerOn_upOut_sending {s : State} (h : s.resetHeld = false) :
    ∃ q, LanePacket.CutShort ⟨s.sendingBytes.getD [0x00, 0xE1, 0xF0], true⟩ q ∧ s.powerOn.upOut = s.upOut ++ [q] := by
  obtain ⟨q, hcut, hoff⟩ := State.cutOff_sending h
  exact ⟨q, returnFiller_eq ▸ hcut, congrArg (s.upOut ++ ·) hoff⟩

/-! ### The power-on values of the vectors -/

theorem initial_chains (k : Fin 4) : Configuration.initial.chains[k.val] = [] := by revert k; decide

theorem initial_regions (k : Fin 6) : Configuration.initial.regions[k.val] = ⟨false, ⟨0, 0, 0, 0⟩, 0⟩ := by
  revert k; decide

theorem initial_windows (k : Fin 4) :
    Configuration.initial.windows[k.val] = ⟨.off, ⟨0, 0, 0, 0⟩, 0, 1, .report, false⟩ := by
  revert k; decide

theorem initial_checker (k : Fin 4) : SignatureUnit.initial.checkers[k.val] = WindowChecker.initial := by
  revert k; decide

/-- Settles O14: the registers as `State.powerOn` sets them, the words and the lanes by the lemmas above. -/
theorem powerOnResetRestoresStart : Obligations.PowerOnResetRestoresStart := by
  intro s
  refine ⟨s.powerOn, rfl, rfl, rfl, rfl, rfl, s.powerOn_record, rfl, fun b i h => s.powerOn_word i h, rfl, rfl, rfl,
    initial_chains, initial_regions, initial_windows, rfl, rfl, rfl, rfl, rfl, State.targetPast_of_noBoundary rfl, rfl,
    fun k => ?_, rfl, rfl, rfl, rfl, rfl, rfl, rfl, rfl, rfl, rfl, rfl, rfl, rfl, rfl, rfl, rfl, rfl, rfl, rfl, rfl,
    s.powerOn_forwardLane, State.powerOn_upOut_held, State.powerOn_upOut_sending⟩
  have hchecker : s.powerOn.sig.checkers[k.val] = WindowChecker.initial := initial_checker k
  rw [hchecker]
  exact ⟨rfl, rfl, rfl, rfl, rfl⟩

end Sys2Proof.Machine
end

section
/-! The link reset (R44, R64, R89, R102, R105, R119, R137, R152, R166): what a good LR clears, and what it keeps. -/

namespace Sys2Proof.Machine

theorem exec_linkReset_good {s : State} (hs : s.resetHeld = false) :
    exec .linkReset s = .next (takeLr s).reportEvents := execPacket (p := .lr) hs rfl

/-! ### The kinds latched (R131, R137) -/

theorem linkReset_events (s : State) : s.linkReset.events =
    { s.events with latched := s.events.latched ||| (if s.rx.state = .frame then 0x002 else 0), reported := 0 } := by
  simp only [State.linkReset, State.linkResetCommit, State.linkResetReturn]
  rw [State.stopRunning_eq]
  dsimp only
  split
  · rfl
  · simp

theorem linkReset_sig (s : State) : s.linkReset.sig = s.sig.linkReset := by
  simp only [State.linkReset, State.linkResetCommit, State.linkResetReturn]
  rw [State.stopRunning_eq]
  dsimp only
  split <;> rfl

theorem linkReset_address (s : State) : s.linkReset.address = s.address := by
  simp only [State.linkReset, State.linkResetCommit, State.linkResetReturn]
  rw [State.stopRunning_eq]
  dsimp only
  split <;> rfl

theorem linkReset_upOut (s : State) : s.linkReset.upOut = s.upOut := by
  simp only [State.linkReset, State.linkResetCommit, State.linkResetReturn]
  rw [State.stopRunning_eq]
  dsimp only
  split <;> rfl

theorem linkReset_downHanded (s : State) : s.linkReset.downHanded = s.downHanded := by
  simp only [State.linkReset, State.linkResetCommit, State.linkResetReturn]
  rw [State.stopRunning_eq]
  dsimp only
  split <;> rfl

theorem SignatureUnit.linkReset_checker (u : SignatureUnit) (k : Fin 4) :
    u.linkReset.checkers[k.val] = { u.checkers[k.val] with running := crc32Start } := by
  simp [SignatureUnit.linkReset]

/-! ### A good LR -/

theorem takeLr_eq (s : State) : takeLr s = s.seen.linkReset.forward (encodePacket .lr) := by
  rw [takeLr, State.signalPresent_eq_seen]

theorem State.seen_sendingBytes (s : State) : s.seen.sendingBytes = s.sendingBytes := rfl

theorem takeLr_ret (s : State) :
    (takeLr s).ret = { ReturnTransmitter.initial with sending := s.sendingBytes.map Sending.uncounted } := by
  rw [takeLr_eq, State.forward_ret, linkReset_ret, State.seen_sendingBytes]

theorem takeLr_events (s : State) : (takeLr s).events =
    { s.events with
      latched := s.events.latched ||| s.rx.foundKinds ||| (if s.rx.state = .frame then 0x002 else 0), reported := 0 } := by
  have hframe : (s.seen.rx.state = .frame) = (s.rx.state = .frame) := propext s.rx.seen_state_frame_iff
  rw [takeLr_eq, State.forward_events, linkReset_events]
  simp only [hframe]
  rfl

theorem takeLr_rx (s : State) : (takeLr s).rx =
    { s.rx with
      state := .hunt, timer := some s.rx.setting,
      brokenFrames := if s.rx.state = .frame then saturate16 s.rx.brokenFrames else s.rx.brokenFrames } := by
  have hframe : (s.seen.rx.state = .frame) = (s.rx.state = .frame) := propext s.rx.seen_state_frame_iff
  rw [takeLr_eq, State.forward_rx, linkReset_rx]
  simp only [hframe]
  rfl

/-- Both queues are empty and nothing is reported, so an EV is queued when a kind is latched and unmasked (R157, R166). -/
theorem State.reportEvents_ofCleared {s : State} (hown : s.ret.own = []) (hreported : s.events.reported = 0) :
    if s.events.latched &&& ~~~s.events.masked = 0 then s.reportEvents.ret.own = [] ∧ s.reportEvents.events.reported = 0
    else s.reportEvents.events.reported = s.events.latched ∧
      ∃ e, s.reportEvents.ret.own = [.event e] ∧ e.kinds = s.events.latched := by
  have hdue : s.EventDue ↔ ¬ s.events.latched &&& ~~~s.events.masked = 0 := by
    have hall : ~~~(0 : BitVec 11) = BitVec.allOnes 11 := by decide
    rw [State.EventDue, hown, hreported, hall, BitVec.and_allOnes]
    simp
  split_ifs with hnone
  · rw [State.reportEvents_of_settled (State.eventDue_eq_false fun h => hdue.1 h hnone)]
    exact ⟨hown, hreported⟩
  · rw [State.reportEvents_due (hdue.2 hnone)]
    exact ⟨by simp [State.queueEvent, hreported], s.eventMessage, by simp [State.queueEvent, hown], rfl⟩

/-- Settles O16: field by field from the lemmas on the link reset, then the test of R157. -/
theorem linkResetClearsManagement : Obligations.LinkResetClearsManagement := by
  intro s hs
  refine ⟨_, exec_linkReset_good hs, ?_⟩
  have hret : (takeLr s).reportEvents.ret = { ReturnTransmitter.initial with
      sending := s.sendingBytes.map Sending.uncounted, own := (takeLr s).reportEvents.ret.own } := by
    rw [State.reportEvents_ret_own, takeLr_ret]
  have hevents : (takeLr s).reportEvents.events.latched =
      s.events.latched ||| s.rx.foundKinds ||| (if s.rx.state = .frame then 0x002 else 0) := by
    rw [State.reportEvents_latched, takeLr_events]
  have hcleared := State.reportEvents_ofCleared (s := takeLr s) (by rw [takeLr_ret]; rfl) (by rw [takeLr_events])
  rw [show (takeLr s).events.masked = s.events.masked by rw [takeLr_events],
    ← State.reportEvents_latched (takeLr s)] at hcleared
  refine ⟨?_, ?_, ?_, ?_, ?_, ?_, ?_, ?_, ?_, ?_, ?_, ?_, ?_, hevents, ?_, hcleared⟩
  · rw [State.reportEvents_jobs, takeLr_eq, State.forward_jobs, linkReset_jobs]
  · rw [State.reportEvents_sig, takeLr_eq, State.forward_sig, linkReset_capture]
  · rw [State.reportEvents_cmd, takeLr_eq, State.forward_cmd, linkReset_cmd]
    rfl
  · rw [hret]; rfl
  · rw [hret]; rfl
  · rw [hret]; rfl
  · rw [hret]; rfl
  · rw [hret]; rfl
  · rw [hret]; rfl
  · rw [hret]
  · rw [State.reportEvents_creditDue, takeLr_eq]
    rfl
  · rw [State.reportEvents_downOut, takeLr_eq, State.forward_downOut, linkReset_downOut]
    rfl
  · rw [State.reportEvents_downHanded, takeLr_eq, State.forward_downHanded, linkReset_downHanded]
    rfl
  · rw [State.reportEvents_masked, takeLr_events]

/-- Settles O17: field by field from the lemmas on the link reset; staged banks by `BankMap.releaseAllStaged_spec`. -/
theorem linkResetKeepsThePicture : Obligations.LinkResetKeepsThePicture := by
  intro s hs hagrees
  refine ⟨_, exec_linkReset_good hs, ?_⟩
  have hbanks : (takeLr s).reportEvents.banks = s.banks.releaseAllStaged := by
    rw [State.reportEvents_banks, takeLr_eq, State.forward_banks, linkReset_banks]
    rfl
  have hmem : (takeLr s).reportEvents.mem = s.seen.stopRunning.mem := by
    rw [State.reportEvents_mem, takeLr_eq, State.forward_mem, State.linkReset_mem]
  have hsig : (takeLr s).reportEvents.sig = s.sig.linkReset := by
    rw [State.reportEvents_sig, takeLr_eq, State.forward_sig, linkReset_sig]
    rfl
  obtain ⟨hrecord, hfree, hquarantine, hwithdrawn⟩ := s.banks.releaseAllStaged_spec hagrees
  rw [hbanks]
  refine ⟨hrecord, hfree, hquarantine, hwithdrawn, fun b i hb => ?_, ?_, ?_, ?_, fun k => ?_, ?_, ?_, ?_, ?_⟩
  · rw [State.word, hmem]
    exact s.seen.stopRunning_memory.2.2 b i hb
  · rw [State.reportEvents_pix, takeLr_eq, State.forward_pix, linkReset_pix]
    rfl
  · rw [State.reportEvents_cfg, takeLr_eq, State.forward_cfg, linkReset_cfg]
    rfl
  · rw [State.reportEvents_commit, takeLr_eq, State.forward_commit, linkReset_commit]
    rfl
  · rw [hsig, SignatureUnit.linkReset_checker]
  · rw [hsig]
    rfl
  · rw [State.reportEvents_address, takeLr_eq, State.forward_address, linkReset_address]
    rfl
  · rw [State.reportEvents_upOut, takeLr_eq, State.forward_upOut, linkReset_upOut]
    rfl
  · rw [State.reportEvents_rx, takeLr_rx]

end Sys2Proof.Machine
end

section
/-! LN and FE outside FRAME, and a frame line (R2 to R7, R20, R21, R127, R129, R130, R135). -/

namespace Sys2Proof.Machine

theorem exec_ln_good {s : State} {line : Half} {pixels : List Word} (hs : s.resetHeld = false)
    (hp : fieldsInRange (.ln line pixels) = true) :
    exec (.ln line pixels) s = .next (takeLn line pixels s).reportEvents := execPacket (p := .ln line pixels) hs hp

theorem exec_fe_good {s : State} {sent : Half} (hs : s.resetHeld = false) (hp : fieldsInRange (.fe sent) = true) :
    exec (.fe sent) s = .next (takeFe sent s).reportEvents := execPacket (p := .fe sent) hs hp

/-! ### The signal shown (R124, R132) -/

/-- Where a signal is carried already, showing it restarts the timer alone. -/
theorem State.seen_of_signal {s : State} (h : s.rx.state ≠ .noSignal) :
    s.seen = { s with rx := { s.rx with timer := some s.rx.setting } } := by
  simp [State.seen, LaneReceiver.seen, LaneReceiver.foundKinds, State.latch, h]

/-- Outside FRAME and BLANK the receiver is in HUNT once a signal is shown. -/
theorem LaneReceiver.seen_state_hunt {r : LaneReceiver} (h : r.state = .hunt ∨ r.state = .noSignal) :
    r.seen.state = .hunt := by
  obtain h | h := h
  · simp [LaneReceiver.seen, h]
  · simp [LaneReceiver.seen, h]

/-! ### LN and FE in BLANK, HUNT and NO_SIGNAL (R129, R130, R135) -/

/-- In BLANK a line or a frame end is a link error, and the receiver hunts (R129). -/
theorem State.seen_blank {s : State} (h : s.rx.state = .blank) :
    { s.seen with rx := { s.seen.rx with state := .hunt } }.linkError = { s with rx := { s.rx with
      state := .hunt, timer := some s.rx.setting, linkErrors := saturate16 s.rx.linkErrors } }.latch 0x001 := by
  rw [State.seen_of_signal (by simp [h]), State.linkError_eq_latch]

theorem takeLn_blank {s : State} (line : Half) (pixels : List Word) (h : s.rx.state = .blank) :
    takeLn line pixels s = ({ s with rx := { s.rx with
        state := .hunt, timer := some s.rx.setting, linkErrors := saturate16 s.rx.linkErrors } }.latch 0x001).sentDown
      (encodePacket (.ln line pixels)) := by
  have hstate : s.seen.rx.state = .blank := by rw [State.seen_of_signal (by simp [h])]; exact h
  simp only [takeLn, State.signalPresent_eq_seen, hstate, State.seen_blank h, State.sentDown_eq_forward]

theorem takeLn_hunt {s : State} (line : Half) (pixels : List Word) (h : s.rx.state = .hunt ∨ s.rx.state = .noSignal) :
    takeLn line pixels s = s.seen.sentDown (encodePacket (.ln line pixels)) := by
  have hstate : s.seen.rx.state = .hunt := LaneReceiver.seen_state_hunt h
  simp only [takeLn, State.signalPresent_eq_seen, hstate, State.sentDown_eq_forward]

theorem takeFe_blank {s : State} (sent : Half) (h : s.rx.state = .blank) :
    takeFe sent s = { (({ s with rx := { s.rx with
        state := .hunt, timer := some s.rx.setting, linkErrors := saturate16 s.rx.linkErrors } }.latch 0x001).sentDown
      (encodePacket (.fe sent))) with creditDue := true } := by
  have hstate : s.seen.rx.state = .blank := by rw [State.seen_of_signal (by simp [h])]; exact h
  simp only [takeFe, State.signalPresent_eq_seen, hstate, State.seen_blank h, State.sentDown_eq_forward]

theorem takeFe_hunt {s : State} (sent : Half) (h : s.rx.state = .hunt ∨ s.rx.state = .noSignal) :
    takeFe sent s = { s.seen.sentDown (encodePacket (.fe sent)) with creditDue := true } := by
  have hstate : s.seen.rx.state = .hunt := LaneReceiver.seen_state_hunt h
  simp only [takeFe, State.signalPresent_eq_seen, hstate, State.sentDown_eq_forward]

/-- Settles O29, packet by packet and receiver state by receiver state. -/
theorem linesAndEndsOutsideFrame : Obligations.LinesAndEndsOutsideFrame := by
  intro s hs
  refine ⟨fun line pixels hp => ⟨fun h => ?_, fun h => ?_⟩, fun sent hp => ⟨fun h => ?_, fun h => ?_⟩⟩
  · rw [exec_ln_good hs hp, takeLn_blank line pixels h]
  · rw [exec_ln_good hs hp, takeLn_hunt line pixels h]
  · rw [exec_fe_good hs hp, takeFe_blank sent h]
  · rw [exec_fe_good hs hp, takeFe_hunt sent h]

/-! ### A frame line (R3 to R7, R20, R21, R127) -/

theorem takeLn_frame {s : State} (line : Half) (pixels : List Word) (h : s.rx.state = .frame) :
    takeLn line pixels s = ({ s with rx := { s.rx with timer := some s.rx.setting } } : State).frameLine line pixels := by
  have hseen := State.seen_of_signal (s := s) (by simp [h])
  have hstate : s.seen.rx.state = .frame := by rw [hseen]; exact h
  simp only [takeLn, State.signalPresent_eq_seen, hstate]
  rw [hseen]

/-- Settles O24: the line as it arrived at both taps, by `SignatureUnit.tapLine_fed`. -/
theorem frameLineForwardedUnchanged : Obligations.FrameLineForwardedUnchanged := by
  intro s line pixels hs hframe hmode hp
  refine ⟨_, SignatureUnit.tapLine_fed s line.toNat _ _, ?_⟩
  rw [exec_ln_good hs hp, takeLn_frame line pixels hframe]
  simp only [State.frameLine, hmode, if_false]
  rfl

/-- Without a fault the handle records are those before the line. -/
theorem State.transformed_handles {disturb : Nat → Option Triple} {m : Memory} {c : Configuration} {y n : Nat}
    {handles : Vector HandleRecord 10} {input out : List Triple} {look : Lookup}
    (h : transformFrom disturb m c y 0 ⟨n, handles, none⟩ input = (out, look)) (sound : look.firstFault = none) :
    look.handles = handles := by
  have hgrows := transformFrom_grows disturb m c y 0 ⟨n, handles, none⟩ input
  rw [h] at hgrows
  exact hgrows.sound (by rw [Lookup.faulted, sound]; rfl)

/-- Settles O25: the pixels by the lemmas on `transformFrom`, the claims by the first faulty stage. -/
theorem frameLineTransformed : Obligations.FrameLineTransformed := by
  intro s line pixels hs hframe hmode hp
  cases hline : transformFrom Config.readDisturbance s.mem s.cfg.active line.toNat 0 ⟨s.reads, s.banks.handles, none⟩
    (pixels.map tripleOfWord) with
  | mk out look =>
  have hlength := transformFrom_length Config.readDisturbance s.mem s.cfg.active line.toNat 0
    ⟨s.reads, s.banks.handles, none⟩ (pixels.map tripleOfWord)
  rw [hline, List.length_map] at hlength
  refine ⟨out, look, _, rfl, hlength, fun w hw => ?_, State.transformed_handles hline,
    SignatureUnit.tapLine_fed s line.toNat _ _, ?_⟩
  · obtain ⟨triple, _, rfl⟩ := List.mem_map.1 hw
    exact wordOfTriple_high triple
  · intro taken noticed
    rw [exec_ln_good hs hp, takeLn_frame line pixels hframe]
    simp only [State.frameLine, hmode, if_true, State.transformed, hline]
    cases hfault : look.firstFault with
    | none =>
      have hnoticed : noticed = taken := by simp only [noticed, hfault]
      rw [hnoticed, State.afterLookups_sound hfault]
      rfl
    | some handles =>
      have hnoticed : noticed = ({ taken with banks := { s.banks with handles := handles } }.latch 0x200).reportEvents := by
        simp only [noticed, hfault]
      rw [hnoticed, State.afterLookups_faulty hfault, State.raise_eq_latch]
      rfl

end Sys2Proof.Machine
end

section
/-! A frame boundary, an overrun start and the loss of the signal (R106, R116, R118, R124 to R126, R131, R132). -/

namespace Sys2Proof.Machine

/-! ### An overrun start (R118, R126) -/

/-- An overrun start, part by part. -/
theorem State.overrunStart_eq (s : State) (frame width height : Half) :
    s.overrunStart frame width height = { s with
      rx := { s.rx with
        lastFrame := frame, width := width, height := height, linesTaken := 0, broken := false,
        brokenFrames := saturate16 s.rx.brokenFrames },
      sig := { s.sig.startFrame s.cfg.active with capture := s.frameBroken.captureOverrun.sig.capture.startFrame },
      ret := { s.ret with own := s.frameBroken.captureOverrun.ret.own },
      events := s.events.raise .frameBroken } := by
  simp only [State.overrunStart, State.signatureFrameStart]
  rw [State.captureOverrun_eq]
  rfl

theorem State.captureOverrun_still {s : State} (h : ∀ r signature, s.sig.capture ≠ .running r signature) :
    s.captureOverrun = s := by
  unfold State.captureOverrun
  split
  · next r signature running => exact absurd running (h r signature)
  · rfl

theorem SignatureUnit.startFrame_checker (u : SignatureUnit) (c : Configuration) (k : Fin 4) :
    (u.startFrame c).checkers[k.val] =
      if c.windows[k.val].mode = .check then { u.checkers[k.val] with running := 0xFFFFFFFF } else u.checkers[k.val] :=
  onChecked_get ..

/-- An FS in FRAME: the timer restarts, and an overrun start follows. -/
theorem takeFs_overrun {s : State} (frame width height : Half) (h : s.rx.state = .frame) :
    takeFs frame width height s =
      (({ s with rx := { s.rx with timer := some s.rx.setting } } : State).overrunStart frame width height).sentDown
        (encodePacket (.fs frame width height)) := by
  rw [takeFs_inFrame _ _ _ h, State.signalPresent_eq_seen, State.seen_of_signal (by simp [h]), State.sentDown_eq_forward]

/-- An FS keeps the rest of the part. -/
theorem FrameKeeps.takeFs (s : State) (frame width height : Half) : FrameKeeps s (takeFs frame width height s) := by
  refine .trans (.signalPresent s) ?_
  unfold Machine.takeFs
  dsimp only
  split
  · exact .trans (.overrunStart _ _ _ _) (.forward _ _)
  · exact .trans (.frameBoundary _ _ _ _) (.forward _ _)

/-- Settles O21: field by field from `State.overrunStart_eq`. -/
theorem overrunStartBreaksFrame : Obligations.OverrunStartBreaksFrame := by
  intro s frame width height hs hframe hp
  have htaken := (takeFs_overrun frame width height hframe).trans (congrArg (State.sentDown · _) (State.overrunStart_eq ..))
  refine ⟨_, exec_fs_good hs hp, ?_, ?_, ?_, ?_, ?_, ?_, ?_, ?_,
    .trans (.takeFs s frame width height) (.reportEvents _), ?_, ?_, fun hidle => ?_, fun k => ?_, fun r harmed => ?_⟩
  · rw [State.reportEvents_rx, htaken]; rfl
  · rw [State.reportEvents_latched, htaken]; rfl
  · rw [State.reportEvents_downOut, htaken]; rfl
  · rw [State.reportEvents_downHanded, htaken]; rfl
  · rw [State.reportEvents_pix, htaken]; rfl
  · rw [State.reportEvents_commit, htaken]; rfl
  · rw [State.reportEvents_cfg, htaken]; rfl
  · rw [State.reportEvents_banks, htaken]; rfl
  · rw [State.reportEvents_creditDue, htaken]; rfl
  · rw [State.reportEvents_sig, htaken]; rfl
  · rw [State.reportEvents_sig, htaken]
    show (State.captureOverrun _).sig.capture.startFrame = _
    rw [State.captureOverrun_still (by simp [hidle]), State.frameBroken_sig]
    simp only [hidle]
    rfl
  · rw [State.reportEvents_sig, htaken]
    exact SignatureUnit.startFrame_checker _ _ k
  · rw [State.reportEvents_sig, htaken]
    show (State.captureOverrun _).sig.capture.startFrame = _
    rw [State.captureOverrun_still (by simp [harmed]), State.frameBroken_sig]
    simp only [harmed]
    rfl

/-! ### The loss of the signal (R118, R131, R132) -/

theorem State.captureSignalLost_still {s : State} (h : ∀ r signature, s.sig.capture ≠ .running r signature) :
    s.captureSignalLost = s := by
  unfold State.captureSignalLost
  split
  · next r signature running => exact absurd running (h r signature)
  · rfl

/-- The signal lost in FRAME, part by part: the frame in progress ends broken. -/
theorem State.loseSignal_frame {s : State} (h : s.rx.state = .frame) :
    s.loseSignal = { s with
      rx := { s.rx with state := .noSignal, timer := none, brokenFrames := saturate16 s.rx.brokenFrames },
      sig := { s.sig with capture := s.frameBroken.captureSignalLost.sig.capture },
      ret := { s.ret with own := s.frameBroken.captureSignalLost.ret.own },
      events := (s.events.raise .frameBroken).raise .signalLost } := by
  simp only [State.loseSignal, h, if_true]
  rw [State.captureSignalLost_eq]
  rfl

theorem exec_signalLossExpiry_running {s : State} (hs : s.resetHeld = false) (htimer : s.rx.timer ≠ none)
    (hsignal : s.rx.state ≠ .noSignal) : exec .signalLossExpiry s = .next s.loseSignal.reportEvents :=
  takeStep_some (event := fun s => if s.rx.timer.isSome ∧ s.rx.state ≠ .noSignal then some s.loseSignal else none) hs
    (if_pos ⟨Option.isSome_iff_ne_none.2 htimer, hsignal⟩)

/-- Settles O34: by the receiver's state. -/
theorem signalLossEndsTracking : Obligations.SignalLossEndsTracking := by
  intro s hs
  refine ⟨fun h => ?_, fun htimer h => ?_, fun htimer h => ?_⟩
  · exact takeStep_absent (event := fun s => if s.rx.timer.isSome ∧ s.rx.state ≠ .noSignal then some s.loseSignal else none)
      (if_neg fun running => running.2 h)
  · have hsignal : s.rx.state ≠ .noSignal ∧ s.rx.state ≠ .frame := by
      obtain h | h := h
      · simp [h]
      · simp [h]
    rw [exec_signalLossExpiry_running hs htimer hsignal.1, State.loseSignal, if_neg hsignal.2, State.raise_eq_latch]
    rfl
  · refine ⟨_, exec_signalLossExpiry_running hs htimer (by simp [h]), ?_⟩
    have hlost := State.loseSignal_frame h
    refine ⟨?_, ?_, ?_, ?_, ?_, ?_, ?_, ?_, .trans (.loseSignal s) (.reportEvents _), ?_, fun hcapture => ?_⟩
    · rw [State.reportEvents_rx, hlost]
    · rw [State.reportEvents_latched, hlost]
      show s.events.latched ||| _ ||| _ = _
      rw [BitVec.or_assoc]
      rfl
    · rw [State.reportEvents_pix, hlost]
    · rw [State.reportEvents_commit, hlost]
    · rw [State.reportEvents_cfg, hlost]
    · rw [State.reportEvents_banks, hlost]
    · rw [State.reportEvents_downOut, hlost]
    · rw [State.reportEvents_creditDue, hlost]
    · rw [State.reportEvents_sig, hlost]
    · rw [State.reportEvents_sig, hlost]
      show (State.captureSignalLost _).sig.capture = _
      rw [State.captureSignalLost_still (s := s.frameBroken) hcapture, State.frameBroken_sig]

end Sys2Proof.Machine
end

section
/-! A frame boundary, field by field (R106, R116, R124, R125). -/

namespace Sys2Proof.Machine

/-! ### The kinds that a boundary can latch -/

theorem foundKinds_getLsbD (r : LaneReceiver) (i : Nat) :
    r.foundKinds.getLsbD i = (decide (r.state = .noSignal) && decide (i = 3)) := by
  have hbit : (0x008 : BitVec 11).getLsbD i = decide (i = 3) := by
    by_cases hi : i < 11
    · have hall : ∀ i < 11, (0x008 : BitVec 11).getLsbD i = decide (i = 3) := by decide
      exact hall i hi
    · rw [BitVec.getLsbD_of_ge _ _ (Nat.not_lt.1 hi), eq_comm, decide_eq_false_iff_not]
      omega
  rw [LaneReceiver.foundKinds]
  split_ifs with h
  · rw [hbit, decide_eq_true h, Bool.true_and]
  · simp [h]

/-- COMMIT_APPLIED, ROLLED_BACK and FALLBACK_ENTERED apart, a boundary latches SIGNAL_FOUND alone. -/
theorem takeFs_boundary_latched {s : State} {i : Nat} (frame width height : Half) (h : s.rx.state ≠ .frame)
    (happlied : i ≠ EventKind.commitApplied.bit) (hrolled : i ≠ EventKind.rolledBack.bit)
    (hfallback : i ≠ EventKind.fallbackEntered.bit) :
    (takeFs frame width height s).events.latched.getLsbD i =
      (s.events.latched.getLsbD i || (decide (s.rx.state = .noSignal) && decide (i = 3))) := by
  rw [takeFs_claims _ _ _ h, State.forward_events]
  show ((s.boundarySwitched frame width height).commitBoundary frame).reportEvents.events.latched.getLsbD i = _
  rw [State.reportEvents_latched, State.commitBoundary_latched _ _ happlied hrolled, State.boundarySwitched,
    State.reportEvents_latched, State.applyPendingMode_latched_ne _ hfallback, State.boundaryReceived,
    State.reportEvents_latched, ← foundKinds_getLsbD, ← BitVec.getLsbD_or]
  rfl

/-! ### The signature unit at a boundary (R106, R116) -/

theorem State.boundarySwitched_sig (s : State) (frame width height : Half) :
    (s.boundarySwitched frame width height).sig = s.sig := by
  rw [State.boundarySwitched, State.reportEvents_sig, State.applyPendingMode_eq]
  simp [State.boundaryReceived]

theorem takeFs_boundary_sig {s : State} (frame width height : Half) (h : s.rx.state ≠ .frame) :
    (takeFs frame width height s).sig =
      { ((s.boundarySwitched frame width height).commitBoundary frame).sig.startFrame (takeFs frame width height s).cfg.active
        with capture := s.sig.capture.startFrame } := by
  have hcapture : ((s.boundarySwitched frame width height).commitBoundary frame).sig.capture = s.sig.capture := by
    obtain hsig | hsig := State.commitBoundary_sig (s.boundarySwitched frame width height) frame
    · rw [hsig, State.boundarySwitched_sig]
    · rw [hsig, ← s.boundarySwitched_sig frame width height]
      rfl
  rw [takeFs_claims _ _ _ h, ← hcapture]
  simp only [State.forward_sig, State.forward_cfg, State.signatureFrameStart, State.reportEvents_sig, State.reportEvents_cfg]

/-- The commit unit's claim leaves the running signatures. -/
theorem commitBoundary_running (s : State) (frame width height : Half) (k : Fin 4) :
    ((s.boundarySwitched frame width height).commitBoundary frame).sig.checkers[k.val].running =
      s.sig.checkers[k.val].running := by
  obtain hsig | hsig := State.commitBoundary_sig (s.boundarySwitched frame width height) frame
  · rw [hsig, State.boundarySwitched_sig]
  · rw [hsig, SignatureUnit.clearCounts_checker, State.boundarySwitched_sig]

theorem takeFs_boundary_running {s : State} (frame width height : Half) (h : s.rx.state ≠ .frame) (k : Fin 4) :
    (takeFs frame width height s).sig.checkers[k.val].running =
      if (takeFs frame width height s).cfg.active.windows[k.val].mode = .check then 0xFFFFFFFF
      else s.sig.checkers[k.val].running := by
  conv_lhs => rw [takeFs_boundary_sig _ _ _ h]
  dsimp only
  rw [SignatureUnit.startFrame_checker]
  split_ifs
  · rfl
  · exact commitBoundary_running s frame width height k

theorem takeFs_boundary_rx {s : State} (frame width height : Half) (h : s.rx.state ≠ .frame) :
    (takeFs frame width height s).rx = { s.rx with
      state := .frame, boundarySeen := true, lastFrame := frame, lastBoundary := frame, width := width, height := height,
      linesTaken := 0, broken := false, timer := some s.rx.setting } := by
  rw [takeFs_outsideFrame _ _ _ h, State.forward_rx, frameBoundary_rx, State.signalPresent_eq_seen]
  rfl

/-- In IDLE and GUARDING the commit unit does nothing at a boundary (R80). -/
theorem takeFs_commitStill {s : State} (frame width height : Half) (h : s.rx.state ≠ .frame)
    (hidle : s.commit.state = .idle ∨ s.commit.state = .guarding) :
    s.SameForCommit (takeFs frame width height s).reportEvents := by
  obtain ⟨u, hbefore, hafter⟩ := takeFs_commitClaim frame width height h
  have hstill : u.commitBoundary frame = u := by
    refine u.commitBoundary_still frame ?_
    rw [hbefore.commit]
    obtain hidle | hguarding := hidle
    · exact .inl hidle
    · exact .inr (.inl hguarding)
  exact hbefore.trans (hstill ▸ hafter)

/-- Two sets of kinds are the same within a set when they agree on every kind of it. -/
theorem kinds_eq_within {a b mask : BitVec 11} (h : ∀ i < 11, mask.getLsbD i = true → a.getLsbD i = b.getLsbD i) :
    a &&& mask = b &&& mask := by
  refine BitVec.eq_of_getLsbD_eq fun i hi => ?_
  rw [BitVec.getLsbD_and, BitVec.getLsbD_and]
  cases hm : mask.getLsbD i with
  | true => rw [h i hi hm]
  | false => simp

/-- Settles O19: field by field; what the commit unit leaves in IDLE and GUARDING by `takeFs_commitStill`. -/
theorem frameBoundaryRecorded : Obligations.FrameBoundaryRecorded := by
  intro s frame width height hs hout hp
  have hlatched {i : Nat} := takeFs_boundary_latched (s := s) (i := i) frame width height hout
  refine ⟨takeFs frame width height s, ?_, takeFs_boundary_rx frame width height hout, ?_, ?_,
    takeFs_boundary_running frame width height hout, fun r harmed => ?_, fun hnot => ?_, fun hidle => ?_,
    .takeFs s frame width height, ?_, ?_, kinds_eq_outside fun i _ hi => ?_, ?_⟩
  · rw [exec_fs_good hs hp, takeFs_settled frame width height hout]
  · rw [takeFs_outsideFrame _ _ _ hout, State.forward_downOut, frameBoundary_downOut, State.signalPresent_downOut]
  · rw [takeFs_claims _ _ _ hout, State.forward_downHanded]
    show ((s.boundarySwitched frame width height).commitBoundary frame).reportEvents.downHanded + 1 = _
    rw [State.reportEvents_downHanded, State.commitBoundary_eq, State.boundarySwitched, State.reportEvents_downHanded,
      State.applyPendingMode_eq]
    simp [State.boundaryReceived]
  · rw [takeFs_boundary_sig _ _ _ hout]
    simp only [harmed]
    rfl
  · rw [takeFs_boundary_sig _ _ _ hout]
    cases hcapture : s.sig.capture with
    | armed r => exact absurd hcapture (hnot r)
    | idle => rfl
    | running r signature => rfl
  · have hsame := takeFs_commitStill frame width height hout hidle
    rw [takeFs_settled frame width height hout] at hsame
    refine ⟨hsame.commit, hsame.cfg, hsame.banks, kinds_eq_within fun i hi hbit => ?_, hsame.checkers⟩
    have hkinds : ∀ i < 11, (0x050 : BitVec 11).getLsbD i = true → i = 4 ∨ i = 6 := by decide
    obtain rfl | rfl := hkinds i hi hbit
    · exact hsame.applied
    · exact hsame.rolled
  · rw [takeFs_claims _ _ _ hout, State.forward_creditDue]
    show ((s.boundarySwitched frame width height).commitBoundary frame).reportEvents.creditDue = _
    rw [State.reportEvents_creditDue, State.commitBoundary_eq, State.boundarySwitched, State.reportEvents_creditDue,
      State.applyPendingMode_eq]
    simp [State.boundaryReceived]
  · rw [takeFs_boundary_sig _ _ _ hout]
    show ((s.boundarySwitched frame width height).commitBoundary frame).sig.mismatchSet = _
    obtain hsig | hsig := State.commitBoundary_sig (s.boundarySwitched frame width height) frame
    · rw [hsig, State.boundarySwitched_sig]
    · rw [hsig, ← s.boundarySwitched_sig frame width height]
      rfl
  · have hkinds : ∀ i < 11, (0x158 : BitVec 11).getLsbD i = false → i ≠ 3 ∧ i ≠ 4 ∧ i ≠ 6 ∧ i ≠ 8 := by decide
    obtain ⟨hfound, happlied, hrolled, hfallback⟩ := hkinds i ‹_› hi
    rw [hlatched happlied hrolled hfallback]
    simp [hfound]
  · rw [hlatched (by decide) (by decide) (by decide)]
    simp

end Sys2Proof.Machine
end

section
/-! The frame end (R92, R94, R107 to R112, R117, R128): the frame judged, the windows evaluated, and the outcome handed over. -/

namespace Sys2Proof.Machine

/-! ### The frame that ends (R128) -/

/-- The frame in progress is over: the receiver is in BLANK, its timer restarted (R128, R132). -/
def State.blanked (s : State) : State := { s with rx := { s.rx with state := .blank, timer := some s.rx.setting } }

/-- What is left of a frame that has ended for the capture unit: counted as broken, evaluated in ACTIVE, or neither. -/
def State.afterVerdict (s : State) (clean : Bool) : State :=
  if clean then (if s.pix.mode = .active then s.blanked.evaluate.reportEvents else s.blanked) else s.blanked.frameBroken

/-- An FE in FRAME: the frame is judged, and the capture unit's attempt ends. -/
theorem takeFe_frame {s : State} (sent : Half) (h : s.rx.state = .frame) :
    takeFe sent s = { (((s.afterVerdict (s.rx.cleanAt sent)).captureFrameEnd (s.rx.cleanAt sent)).sentDown
      (encodePacket (.fe sent))) with creditDue := true } := by
  have hseen := State.seen_of_signal (s := s) (by simp [h])
  have hstate : s.seen.rx.state = .frame := by rw [hseen]; exact h
  have hverdict : s.seen.frameEnd sent =
      (s.afterVerdict (s.rx.cleanAt sent)).captureFrameEnd (s.rx.cleanAt sent) := by
    rw [hseen]
    have hclean : LaneReceiver.cleanAt { s.rx with timer := some s.rx.setting } sent = s.rx.cleanAt sent := rfl
    simp only [State.frameEnd, hclean, State.afterVerdict]
    cases s.rx.cleanAt sent with
    | false => rfl
    | true =>
      by_cases hmode : s.pix.mode = .active
      · simp only [hmode, and_self, if_true]
        rfl
      · simp only [hmode, and_false, if_false, if_true]
        rfl
  simp only [takeFe, State.signalPresent_eq_seen, hstate, hverdict, State.sentDown_eq_forward]

theorem LaneReceiver.cleanAt_eq (r : LaneReceiver) (sent : Half) :
    r.cleanAt sent = (!r.broken && decide (r.linesTaken = r.height.toNat) && decide (sent = r.height)) := rfl

/-! ### What the verdict leaves (R107, R128) -/

theorem State.blanked_keeps (s : State) : FrameKeeps s s.blanked := .of_eq rfl

theorem State.afterVerdict_keeps (s : State) (clean : Bool) : FrameKeeps s (s.afterVerdict clean) := by
  unfold State.afterVerdict
  split
  · split
    · exact .trans s.blanked_keeps (.trans (.evaluate _) (.reportEvents _))
    · exact s.blanked_keeps
  · exact .trans s.blanked_keeps (.frameBroken _)

/-- What any verdict leaves as it is, and the receiver it leaves. -/
structure VerdictKeeps (s u : State) (clean : Bool) : Prop where
  rx         : u.rx = { s.rx with
    state := .blank, timer := some s.rx.setting,
    brokenFrames := if clean then s.rx.brokenFrames else saturate16 s.rx.brokenFrames }
  mode       : u.pix.mode = s.pix.mode
  banks      : u.banks = s.banks
  cfg        : u.cfg = s.cfg
  commit     : u.commit = { s.commit with handed := u.commit.handed }
  capture    : u.sig.capture = s.sig.capture
  downOut    : u.downOut = s.downOut
  downHanded : u.downHanded = s.downHanded

theorem State.afterVerdict_rest (s : State) (clean : Bool) : VerdictKeeps s (s.afterVerdict clean) clean := by
  cases clean with
  | false => exact ⟨rfl, rfl, rfl, rfl, rfl, rfl, rfl, rfl⟩
  | true =>
    unfold State.afterVerdict
    simp only [if_true]
    split
    · exact {
        rx := by rw [State.reportEvents_rx, State.evaluate_eq]; rfl
        mode := by rw [State.reportEvents_pix, State.evaluate_eq]; rfl
        banks := by rw [State.reportEvents_banks, State.evaluate_eq]; rfl
        cfg := by rw [State.reportEvents_cfg, State.evaluate_eq]; rfl
        commit := by rw [State.reportEvents_commit, State.evaluate_eq]; rfl
        capture := by rw [State.reportEvents_sig, State.evaluate_eq]; rfl
        downOut := by rw [State.reportEvents_downOut, State.evaluate_eq]; rfl
        downHanded := by rw [State.reportEvents_downHanded, State.evaluate_eq]; rfl }
    · exact ⟨rfl, rfl, rfl, rfl, rfl, rfl, rfl, rfl⟩

/-- A frame that is broken or not in ACTIVE is not evaluated (R107). -/
theorem State.afterVerdict_unevaluated {s : State} {clean : Bool} (h : clean = false ∨ s.pix.mode ≠ .active) :
    (s.afterVerdict clean).pix = s.pix ∧ (s.afterVerdict clean).commit = s.commit ∧ (s.afterVerdict clean).sig = s.sig := by
  unfold State.afterVerdict
  cases clean with
  | false => exact ⟨rfl, rfl, rfl⟩
  | true =>
    have hmode := h.resolve_left (by simp)
    simp only [if_true, if_neg hmode]
    exact ⟨rfl, rfl, rfl⟩

theorem State.afterVerdict_evaluated {s : State} (h : s.pix.mode = .active) :
    s.afterVerdict true = s.blanked.evaluate.reportEvents := by
  simp only [State.afterVerdict, h, if_true]

/-- WINDOW_MISMATCH is raised by an evaluation with a mismatch (R107). -/
theorem State.evaluate_events (s : State) :
    s.evaluate.events = if s.mismatches ≠ 0 then s.events.raise .windowMismatch else s.events := by
  unfold State.evaluate
  rw [State.raiseIf_events]
  simp only [bne_iff_ne]

/-- FRAME_BROKEN is latched by a broken frame, WINDOW_MISMATCH by an evaluation; no other kind (R107, R131). -/
theorem State.afterVerdict_latched (s : State) (clean : Bool) {i : Nat} (h : i ≠ EventKind.windowMismatch.bit) :
    (s.afterVerdict clean).events.latched.getLsbD i = (s.events.latched.getLsbD i || (!clean && decide (i = 1))) := by
  unfold State.afterVerdict
  cases clean with
  | false =>
    simp only [Bool.false_eq_true, if_false]
    rw [State.frameBroken_events, EventRegister.raise_getLsbD]
    rfl
  | true =>
    simp only [if_true, Bool.not_true, Bool.false_and, Bool.or_false]
    split
    · rw [State.reportEvents_latched, State.evaluate_events]
      split_ifs
      · exact EventRegister.raise_getLsbD_ne _ h
      · rfl
    · rfl

/-- Without an evaluation WINDOW_MISMATCH is as it was. -/
theorem State.afterVerdict_mismatchBit {s : State} {clean : Bool} (h : clean = false ∨ s.pix.mode ≠ .active) :
    (s.afterVerdict clean).events.latched.getLsbD 7 = s.events.latched.getLsbD 7 := by
  unfold State.afterVerdict
  cases clean with
  | false =>
    simp only [Bool.false_eq_true, if_false]
    rw [State.frameBroken_events]
    exact EventRegister.raise_getLsbD_ne _ (by decide)
  | true =>
    have hmode := h.resolve_left (by simp)
    simp only [if_true, if_neg hmode]
    rfl

/-! ### The whole frame end -/

theorem State.captureFrameEnd_still {s : State} (clean : Bool) (h : ∀ r signature, s.sig.capture ≠ .running r signature) :
    s.captureFrameEnd clean = s := by
  unfold State.captureFrameEnd
  split
  · next r signature running => exact absurd running (h r signature)
  · rfl

/-- A frame end, as a change of what the verdict left. -/
theorem takeFe_parts {s : State} {sent : Half} {clean : Bool} (h : s.rx.state = .frame) (hclean : s.rx.cleanAt sent = clean) :
    takeFe sent s = { s.afterVerdict clean with
      sig := { (s.afterVerdict clean).sig with capture := ((s.afterVerdict clean).captureFrameEnd clean).sig.capture },
      ret := { (s.afterVerdict clean).ret with own := ((s.afterVerdict clean).captureFrameEnd clean).ret.own },
      downOut := (s.afterVerdict clean).downOut ++ [⟨encodePacket (.fe sent), true⟩],
      downHanded := (s.afterVerdict clean).downHanded + 1, creditDue := true } := by
  rw [takeFe_frame sent h, hclean, State.captureFrameEnd_eq]
  rfl

theorem FrameKeeps.takeFe_frame {s : State} (sent : Half) (h : s.rx.state = .frame) : FrameKeeps s (takeFe sent s) := by
  rw [Machine.takeFe_frame sent h]
  exact .trans (s.afterVerdict_keeps _) (.trans (.captureFrameEnd _ _) (.of_eq rfl))

/-- Settles O30: what the verdict leaves, then the capture unit's attempt, field by field. -/
theorem frameEndJudgesFrame : Obligations.FrameEndJudgesFrame := by
  intro s sent hs hframe hp clean
  have hparts := takeFe_parts (sent := sent) (clean := clean) hframe rfl
  have hrest := s.afterVerdict_rest clean
  have hlatched : (takeFe sent s).reportEvents.events.latched = (s.afterVerdict clean).events.latched := by
    rw [State.reportEvents_latched, hparts]
  refine ⟨_, exec_fe_good hs hp, ?_, ?_, ?_, ?_, ?_, fun hnot => ⟨?_, ?_, ?_, ?_⟩, fun hcapture => ?_,
    kinds_eq_outside fun i hi hbit => ?_, .trans (.takeFe_frame sent hframe) (.reportEvents _), ?_, ?_, ?_, ?_⟩
  · rw [State.reportEvents_rx, hparts]; exact hrest.rx
  · rw [State.reportEvents_downOut, hparts]; exact congrArg (· ++ _) hrest.downOut
  · rw [State.reportEvents_downHanded, hparts]; exact congrArg (· + 1) hrest.downHanded
  · rw [State.reportEvents_creditDue, hparts]
  · rw [hlatched, State.afterVerdict_latched _ _ (by decide), decide_eq_true rfl, Bool.and_true]
  · rw [State.reportEvents_pix, hparts]; exact (State.afterVerdict_unevaluated hnot).1
  · rw [State.reportEvents_commit, hparts]; exact (State.afterVerdict_unevaluated hnot).2.1
  · have hsig : (s.afterVerdict clean).sig = s.sig := (State.afterVerdict_unevaluated hnot).2.2
    rw [State.reportEvents_sig, hparts]
    simp only [hsig]
  · rw [hlatched]; exact State.afterVerdict_mismatchBit hnot
  · rw [State.reportEvents_sig, hparts]
    show (State.captureFrameEnd _ _).sig.capture = _
    rw [State.captureFrameEnd_still, hrest.capture]
    rw [hrest.capture]
    exact hcapture
  · have hkinds : ∀ i < 11, (0x082 : BitVec 11).getLsbD i = false → i ≠ 1 ∧ i ≠ 7 := by decide
    obtain ⟨hbroken, hmismatch⟩ := hkinds i hi hbit
    rw [hlatched, State.afterVerdict_latched _ _ hmismatch]
    simp [hbroken]
  · rw [State.reportEvents_pix, hparts]; exact hrest.mode
  · rw [State.reportEvents_banks, hparts]; exact hrest.banks
  · rw [State.reportEvents_cfg, hparts]; exact hrest.cfg
  · rw [State.reportEvents_commit, hparts]; exact hrest.commit

end Sys2Proof.Machine
end

section
/-! The evaluation at the FE of a clean ACTIVE frame (R92, R94, R107 to R112): each window's verdict, the fallback request and the
guard outcome. -/

namespace Sys2Proof.Machine

/-! ### The verdict on a window (R107 to R110) -/

/-- The window's rectangle lies within the declared size of the frame (R108). -/
def State.Fits (s : State) (k : Fin 4) : Prop :=
  s.cfg.active.windows[k.val].rect.x1.toNat + 1 ≤ s.rx.width.toNat ∧
    s.cfg.active.windows[k.val].rect.y1.toNat + 1 ≤ s.rx.height.toNat

/-- The window mismatches (R110). -/
def State.Mismatch (s : State) (k : Fin 4) : Prop :=
  s.cfg.active.windows[k.val].mode = .check ∧ s.Fits k ∧
    s.sig.checkers[k.val].running ≠ s.cfg.active.windows[k.val].expected

theorem State.within_iff (s : State) (k : Fin 4) :
    s.cfg.active.windows[k.val].rect.within s.rx.width s.rx.height = true ↔ s.Fits k := by
  rw [Rect.within, Bool.and_eq_true, decide_eq_true_iff, decide_eq_true_iff]
  rfl

theorem State.verdict_off {s : State} {k : Fin 4} (h : s.cfg.active.windows[k.val].mode = .off) :
    s.verdict k = .notJudged := by
  simp only [State.verdict, judge, h]

/-- The verdict on a window in CHECK. -/
theorem State.verdict_check {s : State} {k : Fin 4} (h : s.cfg.active.windows[k.val].mode = .check) :
    (¬ s.Fits k → s.verdict k = .skipped) ∧
      (s.Fits k → s.sig.checkers[k.val].running = s.cfg.active.windows[k.val].expected → s.verdict k = .matched) ∧
      (s.Fits k → s.sig.checkers[k.val].running ≠ s.cfg.active.windows[k.val].expected → s.verdict k = .mismatched) := by
  simp only [State.verdict, judge, h]
  refine ⟨fun hout => ?_, fun hfits hequal => ?_, fun hfits hunequal => ?_⟩
  · have hwithin := Bool.eq_false_iff.2 ((s.within_iff k).not.2 hout)
    simp only [hwithin, Bool.not_false, if_true]
  · simp only [(s.within_iff k).2 hfits, Bool.not_true, Bool.false_eq_true, if_false]
    exact if_pos hequal
  · simp only [(s.within_iff k).2 hfits, Bool.not_true, Bool.false_eq_true, if_false]
    exact if_neg hunequal

theorem State.verdict_mismatched_iff (s : State) (k : Fin 4) : s.verdict k = .mismatched ↔ s.Mismatch k := by
  cases hmode : s.cfg.active.windows[k.val].mode with
  | off => simp [State.verdict_off hmode, State.Mismatch, hmode]
  | check =>
    obtain ⟨hskipped, hmatched, hmismatched⟩ := State.verdict_check hmode
    by_cases hfits : s.Fits k
    · by_cases hequal : s.sig.checkers[k.val].running = s.cfg.active.windows[k.val].expected
      · simp [hmatched hfits hequal, State.Mismatch, hequal]
      · simp [hmismatched hfits hequal, State.Mismatch, hmode, hfits, hequal]
    · simp [hskipped hfits, State.Mismatch, hfits]

theorem State.verdict_skipped_iff (s : State) (k : Fin 4) :
    s.verdict k = .skipped ↔ s.cfg.active.windows[k.val].mode = .check ∧ ¬ s.Fits k := by
  cases hmode : s.cfg.active.windows[k.val].mode with
  | off => simp [State.verdict_off hmode]
  | check =>
    obtain ⟨hskipped, hmatched, hmismatched⟩ := State.verdict_check hmode
    by_cases hfits : s.Fits k
    · by_cases hequal : s.sig.checkers[k.val].running = s.cfg.active.windows[k.val].expected
      · simp [hmatched hfits hequal, hfits]
      · simp [hmismatched hfits hequal, hfits]
    · simp [hskipped hfits, hfits]

/-! ### The mismatch set (R107) -/

/-- The bits of windows set one after the other. -/
theorem foldl_windowBits_getLsbD (p : Fin 4 → Prop) [DecidablePred p] (k : Fin 4) (l : List (Fin 4)) (acc : BitVec 4) :
    (l.foldl (fun acc j => if p j then acc ||| (1#4 <<< j.val) else acc) acc).getLsbD k.val =
      (acc.getLsbD k.val || decide (k ∈ l ∧ p k)) := by
  have hbit : ∀ j k : Fin 4, (1#4 <<< j.val).getLsbD k.val = decide (k = j) := by decide
  induction l generalizing acc with
  | nil => simp
  | cons j l ih =>
    rw [List.foldl_cons, ih]
    by_cases hj : k = j
    · subst hj
      by_cases hp : p k
      · rw [if_pos hp, BitVec.getLsbD_or, hbit, decide_eq_true rfl]
        simp [hp]
      · rw [if_neg hp]
        simp [hp]
    · by_cases hp : p j
      · rw [if_pos hp, BitVec.getLsbD_or, hbit, decide_eq_false hj, Bool.or_false]
        simp [hj]
      · rw [if_neg hp]
        simp [hj]

theorem mem_allWindows (k : Fin 4) : k ∈ allWindows := by revert k; decide

theorem State.mismatches_getLsbD (s : State) (k : Fin 4) : s.mismatches.getLsbD k.val = true ↔ s.Mismatch k := by
  rw [State.mismatches, foldl_windowBits_getLsbD]
  simp [mem_allWindows, State.verdict_mismatched_iff]

/-! ### A clean frame in ACTIVE -/

/-- The FE of a clean frame in ACTIVE (R107, R128). -/
structure CleanActiveEnd (s : State) : Prop where
  held   : s.resetHeld = false
  state  : s.rx.state = .frame
  whole  : s.rx.broken = false
  lines  : s.rx.linesTaken = s.rx.height.toNat
  fields : fieldsInRange (.fe s.rx.height) = true
  mode   : s.pix.mode = .active

theorem CleanActiveEnd.clean {s : State} (e : CleanActiveEnd s) : s.rx.cleanAt s.rx.height = true := by
  rw [LaneReceiver.cleanAt_eq, e.whole, decide_eq_true e.lines, decide_eq_true rfl]
  rfl

/-- The parts of the state after the FE that an evaluation can change. -/
theorem CleanActiveEnd.parts {s : State} (e : CleanActiveEnd s) :
    (takeFe s.rx.height s).reportEvents.sig.checkers = s.blanked.evaluate.sig.checkers ∧
      (takeFe s.rx.height s).reportEvents.sig.mismatchSet = s.mismatches ∧
      (takeFe s.rx.height s).reportEvents.events.latched = s.blanked.evaluate.events.latched ∧
      (takeFe s.rx.height s).reportEvents.pix = s.blanked.evaluate.pix ∧
      (takeFe s.rx.height s).reportEvents.commit = s.blanked.evaluate.commit := by
  have hparts := takeFe_parts e.state e.clean
  have hverdict := State.afterVerdict_evaluated e.mode
  rw [State.reportEvents_sig, State.reportEvents_latched, State.reportEvents_pix, State.reportEvents_commit, hparts,
    hverdict]
  dsimp only
  rw [State.reportEvents_sig, State.reportEvents_latched, State.reportEvents_pix, State.reportEvents_commit]
  refine ⟨rfl, ?_, rfl, rfl, rfl⟩
  rw [State.evaluate_eq]
  rfl

theorem CleanActiveEnd.checker {s : State} (e : CleanActiveEnd s) (k : Fin 4) :
    (takeFe s.rx.height s).reportEvents.sig.checkers[k.val] = s.sig.checkers[k.val].judged (s.verdict k) := by
  rw [e.parts.1, State.evaluate_checker]
  rfl

theorem saturate4_eq (x : BitVec 4) : saturate4 x = if x = 15 then 15 else x + 1 := by
  revert x
  decide

/-- Settles O31, window by window, by the verdict on it. -/
theorem windowsEvaluatedAtCleanActiveEnd : Obligations.WindowsEvaluatedAtCleanActiveEnd := by
  intro s hs hframe hwhole hlines hp hmode
  have e : CleanActiveEnd s := ⟨hs, hframe, hwhole, hlines, hp, hmode⟩
  refine ⟨_, exec_fe_good hs hp, fun k => ?_⟩
  intro w c fits mismatch
  obtain ⟨_, hset, hlatched, _, _⟩ := e.parts
  have hchecker := e.checker k
  refine ⟨fun hoff => ?_, fun hcheck hout => ?_, fun hcheck hfits hequal => ?_, fun hmismatch => ⟨?_, ?_⟩, ?_, fun hnone => ?_⟩
  · rw [hchecker, State.verdict_off hoff]
    rfl
  · rw [hchecker, (State.verdict_check hcheck).1 hout]
    rfl
  · rw [hchecker, (State.verdict_check hcheck).2.1 hfits hequal]
    rfl
  · rw [hchecker, (s.verdict_mismatched_iff k).2 hmismatch, WindowChecker.judged, saturate4_eq]
  · have hsome : s.blanked.mismatches ≠ 0 := by
      intro hzero
      have hbit : s.mismatches.getLsbD k.val = true := (s.mismatches_getLsbD k).2 hmismatch
      rw [show s.mismatches = 0 from hzero] at hbit
      simp at hbit
    rw [hlatched, State.evaluate_events, if_pos hsome, EventRegister.raise_getLsbD,
      decide_eq_true (show 7 = EventKind.windowMismatch.bit from rfl), Bool.or_true]
  · rw [hset]
    exact s.mismatches_getLsbD k
  · have hzero : ¬ s.blanked.mismatches ≠ 0 := not_not.2 (hset ▸ hnone)
    rw [hlatched, State.evaluate_events, if_neg hzero]
    rfl

end Sys2Proof.Machine
end

section
/-! The fallback request and the guard outcome of an evaluation (R92, R94, R111, R112). -/

namespace Sys2Proof.Machine

/-! ### The fallback request (R111) -/

/-- Window `k` asks for FALLBACK, in the registers' values (R111). -/
def State.AsksFallback (s : State) (k : Fin 4) : Prop :=
  s.Mismatch k ∧ s.cfg.active.windows[k.val].action = .fallback ∧
    s.cfg.active.windows[k.val].threshold.toNat ≤ min 15 (s.sig.checkers[k.val].count.toNat + 1) ∧
    ¬ (s.commit.state = .guarding ∧ s.cfg.active.windows[k.val].guardMember = true)

theorem saturate4_toNat (x : BitVec 4) : (saturate4 x).toNat = min 15 (x.toNat + 1) := by
  revert x
  decide

theorem State.judgedChecker_count {s : State} {k : Fin 4} (h : s.Mismatch k) :
    (s.judgedChecker k).count = saturate4 s.sig.checkers[k.val].count := by
  rw [State.judgedChecker, (s.verdict_mismatched_iff k).2 h]
  rfl

theorem State.qualifies_iff (s : State) (k : Fin 4) : s.qualifies k = true ↔ s.AsksFallback k := by
  have hguards : (!s.guards k) = true ↔
      ¬ (s.commit.state = .guarding ∧ s.cfg.active.windows[k.val].guardMember = true) := by
    rw [Bool.not_eq_true', Bool.eq_false_iff, ne_eq, State.guards, Bool.and_eq_true, decide_eq_true_iff]
  rw [State.qualifies, Bool.and_eq_true, Bool.and_eq_true, Bool.and_eq_true, hguards, decide_eq_true_iff,
    decide_eq_true_iff, decide_eq_true_iff, s.verdict_mismatched_iff, State.AsksFallback]
  constructor
  · rintro ⟨⟨⟨hmismatch, hcount⟩, haction⟩, hfree⟩
    rw [State.judgedChecker_count hmismatch, BitVec.le_def, saturate4_toNat] at hcount
    exact ⟨hmismatch, haction, hcount, hfree⟩
  · rintro ⟨hmismatch, haction, hcount, hfree⟩
    rw [State.judgedChecker_count hmismatch, BitVec.le_def, saturate4_toNat]
    exact ⟨⟨⟨hmismatch, hcount⟩, haction⟩, hfree⟩

theorem any_allWindows (p : Fin 4 → Bool) : allWindows.any p = true ↔ ∃ k, p k = true := by
  rw [List.any_eq_true]
  exact exists_congr fun k => and_iff_right (mem_allWindows k)

theorem State.evaluate_pix (s : State) :
    s.evaluate.pix = if allWindows.any s.qualifies then { s.pix with pendingMode := some .fallback } else s.pix := by
  unfold State.evaluate
  rw [State.raiseIf_pix]

/-! ### The guard outcome (R92, R112) -/

theorem State.memberWith_iff (s : State) (v : Verdict) :
    s.memberWith v = true ↔ ∃ k : Fin 4, s.cfg.active.windows[k.val].guardMember = true ∧ s.verdict k = v := by
  rw [State.memberWith, any_allWindows]
  exact exists_congr fun k => by rw [Bool.and_eq_true, decide_eq_true_iff]

theorem State.guardOutcome_failed {s : State} (h : s.memberWith .mismatched = true) : s.guardOutcome = .failed := by
  rw [State.guardOutcome, if_pos h]

theorem State.guardOutcome_notCounted {s : State} (hmismatched : ¬ s.memberWith .mismatched = true)
    (h : s.memberWith .skipped = true) : s.guardOutcome = .notCounted := by
  rw [State.guardOutcome, if_neg hmismatched, if_pos h]

theorem State.guardOutcome_counted {s : State} (hmismatched : ¬ s.memberWith .mismatched = true)
    (hskipped : ¬ s.memberWith .skipped = true) : s.guardOutcome = .counted := by
  rw [State.guardOutcome, if_neg hmismatched, if_neg hskipped]

theorem State.evaluate_commit (s : State) :
    s.evaluate.commit = if s.commit.state = CommitState.guarding then
      { s.commit with handed := s.commit.handed ++ [s.guardOutcome] } else s.commit := by
  unfold State.evaluate
  rw [State.raiseIf_commit]

/-- Settles O32: the request by `qualifies_iff`, the outcome by the members' verdicts. -/
theorem thresholdsAndGuardOutcome : Obligations.ThresholdsAndGuardOutcome := by
  intro s hs hframe hwhole hlines hp hmode fits checked mismatch skipped member qualifies
  have e : CleanActiveEnd s := ⟨hs, hframe, hwhole, hlines, hp, hmode⟩
  obtain ⟨_, _, _, hpix, hcommit⟩ := e.parts
  have hqualifies : (allWindows.any s.blanked.qualifies = true) ↔ ∃ k, qualifies k :=
    (any_allWindows _).trans (exists_congr fun k => s.blanked.qualifies_iff k)
  have hmismatched : s.blanked.memberWith .mismatched = true ↔ ∃ k, member k ∧ mismatch k :=
    (s.blanked.memberWith_iff _).trans (exists_congr fun k => and_congr_right' (s.verdict_mismatched_iff k))
  have hskipped : s.blanked.memberWith .skipped = true ↔ ∃ k, member k ∧ skipped k :=
    (s.blanked.memberWith_iff _).trans (exists_congr fun k => and_congr_right' (s.verdict_skipped_iff k))
  refine ⟨_, exec_fe_good hs hp, fun hasked => ?_, fun hnone => ?_, fun hidle => ?_, fun hguarding =>
    ⟨s.blanked.guardOutcome, ?_, fun hfailed => ?_, fun hno hleft => ?_, fun hno => ?_⟩⟩
  · rw [hpix, State.evaluate_pix, if_pos (hqualifies.2 hasked)]
    rfl
  · rw [hpix, State.evaluate_pix, if_neg (hqualifies.not.2 (not_exists.2 hnone))]
    rfl
  · rw [hcommit, State.evaluate_commit]
    exact if_neg hidle
  · rw [hcommit, State.evaluate_commit]
    exact if_pos hguarding
  · exact State.guardOutcome_failed (hmismatched.2 hfailed)
  · exact State.guardOutcome_notCounted (hmismatched.not.2 (not_exists.2 hno)) (hskipped.2 hleft)
  · refine State.guardOutcome_counted (hmismatched.not.2 ?_) (hskipped.not.2 ?_)
    · rintro ⟨k, hmember, hk⟩
      exact hno k ⟨hmember, .inl hk⟩
    · rintro ⟨k, hmember, hk⟩
      exact hno k ⟨hmember, .inr hk⟩

end Sys2Proof.Machine
end

section
/-! The end of a RUNNING capture's frame (R117, R118, R178): by an FE, by an overrun start, or by the loss of the signal. -/

namespace Sys2Proof.Machine

/-! ### An attempt that ends (R117, R118) -/

/-- The capture of record `r` is answered: the unit is IDLE, the reply at the end of the own queue. -/
structure CaptureAnswered (u v : State) (r : CaptureRecord) (status : Status) (payload : List Byte) : Prop where
  idle : v.sig.capture = .idle
  own  : v.ret.own = u.ret.own ++ [.reply ⟨u.address, r.tag, r.code, status, payload⟩]

/-- The reply stands behind the own queue of an earlier state and the messages queued since. -/
theorem CaptureAnswered.behind {s u v t : State} {r : CaptureRecord} {status : Status} {payload : List Byte}
    {first : List OwnMessage} (answered : CaptureAnswered u v r status payload) (hown : u.ret.own = s.ret.own ++ first)
    (haddress : u.address = s.address) (hcapture : t.sig.capture = v.sig.capture) (hqueue : v.ret.own <+: t.ret.own) :
    t.sig.capture = .idle ∧
      s.ret.own ++ first ++ [.reply ⟨s.address, r.tag, r.code, status, payload⟩] <+: t.ret.own := by
  rw [← hown, ← haddress, ← answered.own, hcapture]
  exact ⟨answered.idle, hqueue⟩

theorem State.brokenAttempt_again {s : State} {r : CaptureRecord} (again : CaptureRecord → Capture)
    (h : r.attempts + 1 < 4) :
    (s.brokenAttempt r again).sig.capture = again { r with attempts := r.attempts + 1 } := by
  obtain ⟨_, hagain⟩ | ⟨hmany, _⟩ := s.brokenAttempt_cases r again
  · rw [hagain]
  · omega

theorem State.brokenAttempt_gaveUp {s : State} {r : CaptureRecord} (again : CaptureRecord → Capture)
    (h : 4 ≤ r.attempts + 1) :
    CaptureAnswered s (s.brokenAttempt r again) r .noCleanFrame (noCleanFramePayload (r.attempts + 1)) := by
  obtain ⟨hfew, _⟩ | ⟨_, hanswered⟩ := s.brokenAttempt_cases r again
  · omega
  · rw [hanswered]
    exact ⟨rfl, rfl⟩

theorem State.captureOverrun_running {s : State} {r : CaptureRecord} {signature : Word}
    (h : s.sig.capture = .running r signature) :
    s.captureOverrun = s.brokenAttempt r fun r' => .running r' crc32Start := by
  simp only [State.captureOverrun, h]

theorem State.captureSignalLost_running {s : State} {r : CaptureRecord} {signature : Word}
    (h : s.sig.capture = .running r signature) : s.captureSignalLost = s.brokenAttempt r .armed := by
  simp only [State.captureSignalLost, h]

/-! ### An FE (R117) -/

/-- The captured rectangle lies within the declared size of the frame (R117). -/
def CaptureRecord.Fits (r : CaptureRecord) (s : State) : Prop :=
  r.rect.x1.toNat + 1 ≤ s.rx.width.toNat ∧ r.rect.y1.toNat + 1 ≤ s.rx.height.toNat

theorem CaptureRecord.within_iff (r : CaptureRecord) (s : State) :
    r.rect.within s.rx.width s.rx.height = true ↔ r.Fits s := by
  rw [Rect.within, Bool.and_eq_true, decide_eq_true_iff, decide_eq_true_iff]
  rfl

theorem State.captureFrameEnd_outside {s : State} {r : CaptureRecord} {signature : Word} {clean : Bool}
    (h : s.sig.capture = .running r signature) (hout : ¬ r.Fits s) :
    CaptureAnswered s (s.captureFrameEnd clean) r .outside (outsidePayload s.rx.width s.rx.height) := by
  have hwithin := Bool.eq_false_iff.2 ((r.within_iff s).not.2 hout)
  simp only [State.captureFrameEnd, h, hwithin, Bool.not_false, if_true]
  exact ⟨rfl, rfl⟩

theorem State.captureFrameEnd_captured {s : State} {r : CaptureRecord} {signature : Word}
    (h : s.sig.capture = .running r signature) (hfits : r.Fits s) :
    CaptureAnswered s (s.captureFrameEnd true) r .ok (capturedPayload r s.rx.lastFrame s.pix.mode signature) := by
  simp only [State.captureFrameEnd, h, (r.within_iff s).2 hfits, Bool.not_true, Bool.false_eq_true, if_false, if_true]
  exact ⟨rfl, rfl⟩

theorem State.captureFrameEnd_broken {s : State} {r : CaptureRecord} {signature : Word}
    (h : s.sig.capture = .running r signature) (hfits : r.Fits s) :
    s.captureFrameEnd false = s.brokenAttempt r .armed := by
  simp only [State.captureFrameEnd, h, (r.within_iff s).2 hfits, Bool.not_true, Bool.false_eq_true, if_false]

/-! ### The own queue after the verdict (R107, R157) -/

/-- The test of R157 queues at most an EV. -/
theorem State.reportEvents_own (s : State) :
    s.reportEvents.ret.own = s.ret.own ∨ ∃ e, s.reportEvents.ret.own = s.ret.own ++ [.event e] := by
  unfold State.reportEvents
  split
  · exact .inr ⟨_, rfl⟩
  · exact .inl rfl

/-- The verdict on a frame queues at most an EV, and that after the evaluation of a clean frame in ACTIVE alone. -/
theorem State.afterVerdict_own (s : State) (clean : Bool) :
    (s.afterVerdict clean).ret.own = s.ret.own ∨
      (clean = true ∧ s.pix.mode = .active ∧ ∃ e, (s.afterVerdict clean).ret.own = s.ret.own ++ [.event e]) := by
  cases clean with
  | false => exact .inl rfl
  | true =>
    by_cases hmode : s.pix.mode = .active
    · have hown : s.blanked.evaluate.ret.own = s.ret.own := by rw [State.evaluate_eq]; rfl
      rw [State.afterVerdict_evaluated hmode, ← hown]
      exact s.blanked.evaluate.reportEvents_own.imp id fun queued => ⟨rfl, hmode, queued⟩
    · left
      simp only [State.afterVerdict, hmode, if_true, if_false]
      rfl

/-! ### The capture unit after each end of the frame -/

/-- The capture unit after an FE in FRAME, and the own queue. -/
theorem takeFe_capture {s : State} {sent : Half} {clean : Bool} (h : s.rx.state = .frame) (hclean : s.rx.cleanAt sent = clean) :
    (takeFe sent s).reportEvents.sig.capture = ((s.afterVerdict clean).captureFrameEnd clean).sig.capture ∧
      ((s.afterVerdict clean).captureFrameEnd clean).ret.own <+: (takeFe sent s).reportEvents.ret.own := by
  have hparts := takeFe_parts h hclean
  have hown : ((s.afterVerdict clean).captureFrameEnd clean).ret.own = (takeFe sent s).ret.own := by rw [hparts]
  refine ⟨?_, hown ▸ State.own_prefix_reportEvents _⟩
  rw [State.reportEvents_sig, hparts]

/-- The capture unit after an overrun start, and the own queue. -/
theorem takeFs_capture {s : State} {frame width height : Half} (h : s.rx.state = .frame) :
    ∃ u : State, u.sig.capture = s.sig.capture ∧ u.ret.own = s.ret.own ∧ u.address = s.address ∧
      (takeFs frame width height s).reportEvents.sig.capture = u.captureOverrun.sig.capture.startFrame ∧
      u.captureOverrun.ret.own <+: (takeFs frame width height s).reportEvents.ret.own := by
  let u : State := { s with rx := { s.rx with timer := some s.rx.setting } }
  have htaken := (takeFs_overrun frame width height h).trans (congrArg (State.sentDown · _) (State.overrunStart_eq ..))
  have hown : u.frameBroken.captureOverrun.ret.own = (takeFs frame width height s).ret.own := by rw [htaken]; rfl
  refine ⟨u.frameBroken, rfl, rfl, rfl, ?_, hown ▸ State.own_prefix_reportEvents _⟩
  rw [State.reportEvents_sig, htaken]
  rfl

/-- The capture unit after the loss of the signal in FRAME, and the own queue. -/
theorem loseSignal_capture {s : State} (h : s.rx.state = .frame) :
    s.loseSignal.reportEvents.sig.capture = s.frameBroken.captureSignalLost.sig.capture ∧
      s.frameBroken.captureSignalLost.ret.own <+: s.loseSignal.reportEvents.ret.own := by
  have hlost := State.loseSignal_frame h
  have hown : s.frameBroken.captureSignalLost.ret.own = s.loseSignal.ret.own := by rw [hlost]
  refine ⟨?_, hown ▸ State.own_prefix_reportEvents _⟩
  rw [State.reportEvents_sig, hlost]

/-- Settles O33: the FE, the overrun start and the loss of the signal in turn. -/
theorem captureAttemptEnds : Obligations.CaptureAttemptEnds := by
  intro s r signature hs hframe hrunning fits behind gaveUp
  refine ⟨fun sent hp => ⟨_, exec_fe_good hs hp, ?_⟩, fun frame width height hp => ⟨_, exec_fs_good hs hp, ?_⟩,
    fun htimer => ⟨_, exec_signalLossExpiry_running hs htimer (by simp [hframe]), ?_⟩⟩
  · intro clean answers
    have hrest := s.afterVerdict_rest clean
    have hverdict : (s.afterVerdict clean).sig.capture = .running r signature := hrest.capture.trans hrunning
    have haddress : (s.afterVerdict clean).address = s.address := (s.afterVerdict_keeps clean).address
    have hfits : r.Fits (s.afterVerdict clean) ↔ fits := by rw [CaptureRecord.Fits, hrest.rx]
    obtain ⟨hcapture, hqueue⟩ := takeFe_capture (sent := sent) (clean := clean) hframe rfl
    have hanswers {status : Status} {payload : List Byte} (answered : CaptureAnswered (s.afterVerdict clean)
        ((s.afterVerdict clean).captureFrameEnd clean) r status payload) :
        answers (takeFe sent s).reportEvents status payload := by
      obtain hown | ⟨hclean, hmode, e, hown⟩ := s.afterVerdict_own clean
      · exact .inl (answered.behind (hown.trans (List.append_nil _).symm) haddress hcapture hqueue)
      · exact .inr ⟨hclean, hmode, e, answered.behind hown haddress hcapture hqueue⟩
    refine ⟨fun hout => ?_, fun hin hclean => ?_, fun hin hbroken hfew => ?_, fun hin hbroken hmany => ?_⟩
    · have answered := State.captureFrameEnd_outside (clean := clean) hverdict (hfits.not.2 hout)
      rw [hrest.rx] at answered
      exact hanswers answered
    · have answered := State.captureFrameEnd_captured hverdict (hfits.2 hin)
      rw [hrest.rx, hrest.mode] at answered
      exact hanswers (by rw [hclean] at answered ⊢; exact answered)
    · rw [hcapture, hbroken, State.captureFrameEnd_broken (hbroken ▸ hverdict) (hbroken ▸ hfits.2 hin),
        State.brokenAttempt_again _ hfew]
    · have hown : (s.afterVerdict clean).ret.own = s.ret.own :=
        (s.afterVerdict_own clean).resolve_right fun queued => by simp [hbroken] at queued
      have hended : (s.afterVerdict clean).captureFrameEnd clean = (s.afterVerdict clean).brokenAttempt r .armed := by
        rw [← State.captureFrameEnd_broken hverdict (hfits.2 hin), hbroken]
      rw [hended] at hcapture hqueue
      exact (State.brokenAttempt_gaveUp _ hmany).behind (hown.trans (List.append_nil _).symm) haddress hcapture hqueue
  · obtain ⟨u, hu, hown, haddress, hcapture, hqueue⟩ :=
      takeFs_capture (frame := frame) (width := width) (height := height) hframe
    rw [State.captureOverrun_running (hu.trans hrunning)] at hcapture hqueue
    refine ⟨fun hfew => ?_, fun hmany => ?_⟩
    · rw [hcapture, State.brokenAttempt_again _ hfew]
      rfl
    · have answered := State.brokenAttempt_gaveUp (s := u) (fun r' => .running r' crc32Start) hmany
      rw [answered.idle] at hcapture
      exact answered.behind (hown.trans (List.append_nil _).symm) haddress (hcapture.trans answered.idle.symm) hqueue
  · obtain ⟨hcapture, hqueue⟩ := loseSignal_capture hframe
    rw [State.captureSignalLost_running (s := s.frameBroken) hrunning] at hcapture hqueue
    refine ⟨fun hfew => ?_, fun hmany => ?_⟩
    · rw [hcapture, State.brokenAttempt_again _ hfew]
    · exact (State.brokenAttempt_gaveUp (s := s.frameBroken) _ hmany).behind (List.append_nil _).symm rfl hcapture hqueue

end Sys2Proof.Machine
end

section
/-! What a stage gives when none of its reads is faulty (R14 to R17), and the reads a fault can come from (R18). -/

namespace Sys2Proof.Machine

section StageResults

variable {disturb : Nat → Option Triple} {m : Memory} {bank : Bank} {px : Triple}

/-! ### The output of a sound stage -/

/-- The output of a CURVE stage (R14). -/
def curveOutput (m : Memory) (bank : Bank) (mask : Byte) (px : Triple) : Triple :=
  ⟨if mask.getLsbD 0 then (storedValues m bank px.c0).c0 else px.c0,
   if mask.getLsbD 1 then (storedValues m bank px.c1).c1 else px.c1,
   if mask.getLsbD 2 then (storedValues m bank px.c2).c2 else px.c2⟩

/-- Key record `k` matches the pixel, as a test (R17). -/
def keyTakes (m : Memory) (bank : Bank) (px : Triple) (k : Nat) : Bool :=
  (storedKey m bank k).valid && ((storedKey m bank k).matchesAll ||
    (storedKey m bank k).within (storedValues m bank (keyWord k 0)) (storedValues m bank (keyWord k 1)) px)

/-- What a matching key record makes of the pixel (R16). -/
def keyApplied (m : Memory) (bank : Bank) (px : Triple) (k : Nat) : Triple :=
  if (storedKey m bank k).pass then px else storedValues m bank (keyWord k 2)

/-- The output of a KEY search over the given records (R16). -/
def keyOutput (m : Memory) (bank : Bank) (px : Triple) (records : List Nat) : Triple :=
  ((records.find? (keyTakes m bank px)).map (keyApplied m bank px)).getD px

/-- The output of a stage (R14 to R16). -/
def stageOutput (m : Memory) (active : Option Side) (st : Stage) (px : Triple) : Triple :=
  match active with
  | none => px
  | some side =>
      match st.kind with
      | .curve => curveOutput m side.bank st.option px
      | .palette => storedValues m side.bank (paletteIndex st.option px)
      | .key => keyOutput m side.bank px (List.range' 0 side.keyCount)

theorem keyTakes_iff (k : Nat) : keyTakes m bank px k = true ↔ KeyMatches m bank px k := by
  rw [keyTakes, Bool.and_eq_true, Bool.or_eq_true]
  rfl

theorem keyOutput_cons (k : Nat) (records : List Nat) :
    keyOutput m bank px (k :: records) = if keyTakes m bank px k = true then keyApplied m bank px k
      else keyOutput m bank px records := by
  by_cases h : keyTakes m bank px k = true
  · rw [if_pos h, keyOutput, List.find?_cons_of_pos h]
    rfl
  · rw [if_neg h, keyOutput, List.find?_cons_of_neg h]
    rfl

/-! ### A faulty stage has a faulty read (R18) -/

/-- One of the reads numbered from `n` to before `n'` is faulty. -/
def FaultAmong (disturb : Nat → Option Triple) (m : Memory) (bank : Bank) (n n' : Nat) : Prop :=
  ∃ i word, n ≤ i ∧ i < n' ∧ FaultyRead disturb m bank i word

theorem FaultAmong.mono {n n' k k' : Nat} (h : FaultAmong disturb m bank n n') (hn : k ≤ n) (hn' : n' ≤ k') :
    FaultAmong disturb m bank k k' := by
  obtain ⟨i, word, hfrom, hto, hread⟩ := h
  exact ⟨i, word, hn.trans hfrom, hto.trans_le hn', hread⟩

/-- Reads that a fault has not disturbed, of a sound memory, are not faulty (R22). -/
theorem not_faultAmong {n n' : Nat} (hm : m.Sound) (h : ∀ i, n ≤ i → i < n' → disturb i = none) :
    ¬ FaultAmong disturb m bank n n' := by
  rintro ⟨i, word, hfrom, hto, hread⟩
  rw [FaultyRead, readWord_sound hm disturb i bank word (h i hfrom hto)] at hread
  exact absurd hread Bool.false_ne_true

/-! ### CURVE and PALETTE -/

theorem curveComponent_value {masked : Bool} {v : Comp} {pick : Triple → Comp} {n : Nat}
    (h : (curveComponent disturb m bank masked v pick n).2.1 = false) :
    (curveComponent disturb m bank masked v pick n).1 = if masked then pick (storedValues m bank v) else v := by
  cases masked with
  | false => rfl
  | true => exact congrArg pick (readWord_values h)

/-- A CURVE stage: its output unless it is faulty, and then a faulty read among its own. -/
theorem runCurve_result (mask : Byte) (n : Nat) :
    let r := runCurve disturb m bank mask px n
    n ≤ r.next ∧ (r.faulty = false → r.out = curveOutput m bank mask px) ∧
      (r.faulty = true → FaultAmong disturb m bank n r.next) := by
  intro r
  obtain ⟨hfaulty, _, _⟩ := runCurve_fault disturb m bank mask px n
  have hnext : r.next = n + (if mask.getLsbD 0 then 1 else 0) + (if mask.getLsbD 1 then 1 else 0) +
      (if mask.getLsbD 2 then 1 else 0) := (runCurve_fault disturb m bank mask px n).2.1
  refine ⟨by omega, fun hsound => ?_, fun hfault => ?_⟩
  · simp only [r, runCurve] at hsound ⊢
    split at hsound
    · exact absurd hsound (by simp)
    · next hnone =>
      rw [if_neg hnone]
      simp only [Bool.or_eq_true, not_or, Bool.not_eq_true] at hnone
      obtain ⟨⟨h0, h1⟩, h2⟩ := hnone
      rw [curveComponent_value h0, curveComponent_value h1, curveComponent_value h2]
      rfl
  · obtain ⟨hmask, hread⟩ | ⟨hmask, hread⟩ | ⟨hmask, hread⟩ := hfaulty.1 hfault
    · exact ⟨_, _, le_refl n, by rw [hnext, if_pos hmask]; omega, hread⟩
    · exact ⟨_, _, Nat.le_add_right n _, by rw [hnext, if_pos hmask]; dsimp only; omega, hread⟩
    · exact ⟨_, _, (Nat.le_add_right n _).trans (Nat.le_add_right _ _), by rw [hnext, if_pos hmask]; dsimp only; omega, hread⟩

/-- A PALETTE stage: its output unless its read is faulty. -/
theorem runPalette_result (component : Byte) (n : Nat) :
    let r := runPalette disturb m bank component px n
    n ≤ r.next ∧ (r.faulty = false → r.out = storedValues m bank (paletteIndex component px)) ∧
      (r.faulty = true → FaultAmong disturb m bank n r.next) := by
  refine ⟨Nat.le_succ n, fun hsound => ?_, fun hfault => ⟨n, _, le_refl n, Nat.lt_succ_self n, hfault⟩⟩
  have hread : (readWord disturb m n bank (paletteIndex component px)).faulty = false := hsound
  rw [runPalette, hread]
  exact readWord_values hread

/-! ### KEY (R16, R17) -/

/-- A record examined that ends the search without a fault. -/
structure KeyFound (m : Memory) (bank : Bank) (px : Triple) (k n : Nat) (r : StageResult) : Prop where
  matching : KeyMatches m bank px k
  sound    : r.faulty = false
  out      : r.out = keyApplied m bank px k
  after    : n ≤ r.next

/-- A record examined that ends the search at a fault. -/
structure KeyFault (disturb : Nat → Option Triple) (m : Memory) (bank : Bank) (n : Nat) (r : StageResult) : Prop where
  faulty : r.faulty = true
  among  : FaultAmong disturb m bank n r.next

theorem applyKey_result {k n n' : Nat} (hle : n ≤ n') (hmatch : KeyMatches m bank px k) :
    KeyFound m bank px k n (applyKey disturb m bank k (storedKey m bank k).pass px n') ∨
      KeyFault disturb m bank n (applyKey disturb m bank k (storedKey m bank k).pass px n') := by
  unfold applyKey
  by_cases hpass : (storedKey m bank k).pass = true
  · rw [if_pos hpass]
    exact .inl ⟨hmatch, rfl, by rw [keyApplied, if_pos hpass], hle⟩
  · rw [if_neg hpass]
    by_cases hread : FaultyRead disturb m bank n' (keyWord k 2)
    · exact .inr ⟨hread, n', _, hle, Nat.lt_succ_self n', hread⟩
    · obtain ⟨hvalues, hsound⟩ := readWord_not_faulty hread
      exact .inl ⟨hmatch, hsound, by simp only [keyApplied, if_neg hpass, hsound, hvalues]; rfl, by simp only; omega⟩

/-- One record of a KEY search: the search ends at it, with its effect or at a fault, or the record does not match and
the search goes on. -/
theorem searchKeys_succ (k n rest : Nat) :
    let r := searchKeys disturb m bank px k n (rest + 1)
    KeyFound m bank px k n r ∨ KeyFault disturb m bank n r ∨
      (¬ KeyMatches m bank px k ∧ r = searchKeys disturb m bank px (k + 1) (n + keyReads m bank k) rest) := by
  intro r
  by_cases hcontrol : FaultyRead disturb m bank n (keyWord k 3)
  · have hr : r = ⟨px, true, n + 1⟩ := if_pos hcontrol
    rw [hr]
    exact .inr (.inl ⟨rfl, n, _, le_refl n, Nat.lt_succ_self n, hcontrol⟩)
  obtain ⟨hvalues, hsound⟩ := readWord_not_faulty hcontrol
  have hkey : KeyControl.ofTriple (readWord disturb m n bank (keyWord k 3)).values = storedKey m bank k := by
    rw [hvalues]; rfl
  simp only [r, searchKeys, hsound, hkey, Bool.false_eq_true, if_false]
  cases hvalid : (storedKey m bank k).valid with
  | false => exact .inr (.inr ⟨by simp [KeyMatches, hvalid], by simp [keyReads, hvalid]⟩)
  | true =>
  cases hall : (storedKey m bank k).matchesAll with
  | true => exact (applyKey_result (Nat.le_succ n) ⟨hvalid, .inl hall⟩).imp id .inl
  | false =>
  simp only [Bool.not_true, Bool.false_eq_true, if_false]
  by_cases hlow : (readWord disturb m (n + 1) bank (keyWord k 0)).faulty = true
  · rw [if_pos hlow]
    exact .inr (.inl ⟨rfl, n + 1, _, Nat.le_succ n, Nat.lt_succ_self _, hlow⟩)
  obtain ⟨hlowValues, hlowSound⟩ := readWord_not_faulty hlow
  by_cases hhigh : (readWord disturb m (n + 2) bank (keyWord k 1)).faulty = true
  · rw [hlowSound, if_neg Bool.false_ne_true, if_pos hhigh]
    exact .inr (.inl ⟨rfl, n + 2, _, Nat.le_add_right n 2, Nat.lt_succ_self _, hhigh⟩)
  obtain ⟨hhighValues, hhighSound⟩ := readWord_not_faulty hhigh
  simp only [hlowSound, hhighSound, hlowValues, hhighValues, Bool.false_eq_true, if_false]
  split
  · next hwithin => exact (applyKey_result (Nat.le_add_right n 3) ⟨hvalid, .inr hwithin⟩).imp id .inl
  · next hwithin =>
    exact .inr (.inr ⟨by simp [KeyMatches, hall, hwithin], by simp [keyReads, hvalid]⟩)

/-- A KEY search: its output unless it is faulty, and then a faulty read among its own. -/
theorem searchKeys_result (k n rest : Nat) :
    let r := searchKeys disturb m bank px k n rest
    n ≤ r.next ∧ (r.faulty = false → r.out = keyOutput m bank px (List.range' k rest)) ∧
      (r.faulty = true → FaultAmong disturb m bank n r.next) := by
  induction rest generalizing k n with
  | zero => exact ⟨le_refl n, fun _ => rfl, fun hfault => absurd hfault Bool.false_ne_true⟩
  | succ rest ih =>
    intro r
    rw [List.range'_succ, keyOutput_cons]
    obtain hfound | hfault | ⟨hno, hrest⟩ := searchKeys_succ (disturb := disturb) (m := m) (bank := bank) (px := px) k n rest
    · rw [if_pos ((keyTakes_iff k).2 hfound.matching)]
      exact ⟨hfound.after, fun _ => hfound.out, fun hfault => absurd (hfound.sound.symm.trans hfault) Bool.false_ne_true⟩
    · obtain ⟨i, word, hfrom, hto, hread⟩ := hfault.among
      exact ⟨hfrom.trans hto.le, fun hsound => absurd (hsound.symm.trans hfault.faulty) Bool.false_ne_true,
        fun _ => hfault.among⟩
    · obtain ⟨hle, hout, hamong⟩ := ih (k + 1) (n + keyReads m bank k)
      rw [if_neg ((keyTakes_iff k).not.2 hno)]
      simp only [r, hrest]
      exact ⟨(Nat.le_add_right n _).trans hle, hout, fun hfault => (hamong hfault).mono (Nat.le_add_right n _) (le_refl _)⟩

/-! ### Any stage -/

/-- A stage: its output unless it is faulty, and then a faulty read among its own. -/
theorem runStage_result (active : Option Side) (st : Stage) (n : Nat) :
    let r := runStage disturb m active st px n
    n ≤ r.next ∧ (r.faulty = false → r.out = stageOutput m active st px) ∧
      (r.faulty = true → ∃ bank, FaultAmong disturb m bank n r.next) := by
  cases active with
  | none => exact ⟨le_refl n, fun _ => rfl, fun hfault => absurd hfault Bool.false_ne_true⟩
  | some side =>
    cases hkind : st.kind with
    | curve =>
      simp only [runStage, stageOutput, hkind]
      obtain ⟨hle, hout, hamong⟩ := runCurve_result (disturb := disturb) (m := m) (bank := side.bank) (px := px) st.option n
      exact ⟨hle, hout, fun hfault => ⟨_, hamong hfault⟩⟩
    | palette =>
      simp only [runStage, stageOutput, hkind]
      obtain ⟨hle, hout, hamong⟩ := runPalette_result (disturb := disturb) (m := m) (bank := side.bank) (px := px) st.option n
      exact ⟨hle, hout, fun hfault => ⟨_, hamong hfault⟩⟩
    | key =>
      simp only [runStage, stageOutput, hkind]
      obtain ⟨hle, hout, hamong⟩ :=
        searchKeys_result (disturb := disturb) (m := m) (bank := side.bank) (px := px) 0 n side.keyCount
      exact ⟨hle, hout, fun hfault => ⟨_, hamong hfault⟩⟩

/-- A stage none of whose reads is disturbed gives its output (R14 to R16). -/
theorem runStage_out (hm : m.Sound) {active : Option Side} {st : Stage} {n : Nat}
    (h : ∀ i, n ≤ i → i < (runStage disturb m active st px n).next → disturb i = none) :
    (runStage disturb m active st px n).out = stageOutput m active st px := by
  obtain ⟨_, hout, hamong⟩ := runStage_result (disturb := disturb) (m := m) (px := px) active st n
  refine hout (Bool.eq_false_iff.2 fun hfault => ?_)
  obtain ⟨_, hfaulty⟩ := hamong hfault
  exact not_faultAmong hm h hfaulty

end StageResults

/-- Settles O27: the output of each kind of stage, no read being disturbed. -/
theorem stageResults : Obligations.StageResults := by
  intro m bank px n hm word
  have hsound {n n' : Nat} : ¬ FaultAmong (fun _ => none) m bank n n' := not_faultAmong hm fun _ _ _ => rfl
  have hpalette (component : Byte) :
      (runPalette (fun _ => none) m bank component px n).out = word (paletteIndex component px) := by
    obtain ⟨_, hout, hamong⟩ := runPalette_result (disturb := fun _ => none) (m := m) (bank := bank) (px := px) component n
    exact hout (Bool.eq_false_iff.2 fun hfault => hsound (hamong hfault))
  refine ⟨fun mask => ?_, hpalette 0, hpalette 1, hpalette 2, fun keyCount => ?_⟩
  · obtain ⟨_, hout, hamong⟩ := runCurve_result (disturb := fun _ => none) (m := m) (bank := bank) (px := px) mask n
    exact hout (Bool.eq_false_iff.2 fun hfault => hsound (hamong hfault))
  · obtain ⟨_, hout, hamong⟩ := searchKeys_result (disturb := fun _ => none) (m := m) (bank := bank) (px := px) 0 n keyCount
    rw [hout (Bool.eq_false_iff.2 fun hfault => hsound (hamong hfault)), keyOutput, ← List.range_eq_range']
    show Option.getD (((List.range keyCount).find? (keyTakes m bank px)).map _) px =
      match (List.range keyCount).find? (keyTakes m bank px) with
      | none => px
      | some k => keyApplied m bank px k
    cases (List.range keyCount).find? (keyTakes m bank px) with
    | none => rfl
    | some k => rfl

end Sys2Proof.Machine
end

section
/-! Faulty stages (R18 to R20): when a stage meets a fault, and what the fault leaves on its handle. -/

namespace Sys2Proof.Machine

section FaultyStages

variable (disturb : Nat → Option Triple) (m : Memory) (bank : Bank) (px : Triple)

/-! ### When a KEY search meets a fault (R17, R18) -/

/-- The reads made of `i` records from record `k` on, none of which matches. -/
def readsOver (m : Memory) (bank : Bank) (k i : Nat) : Nat := ((List.range i).map fun j => keyReads m bank (k + j)).sum

theorem readsOver_succ (k i : Nat) : readsOver m bank k (i + 1) = keyReads m bank k + readsOver m bank (k + 1) i := by
  rw [readsOver, List.range_succ_eq_map, List.map_cons, List.map_map, List.sum_cons]
  refine congrArg (keyReads m bank k + List.sum ·) (List.map_congr_left fun j _ => ?_)
  show keyReads m bank (k + (j + 1)) = keyReads m bank (k + 1 + j)
  rw [Nat.add_right_comm, Nat.add_assoc]

/-- Record `j` of those from record `k` on is examined without a match and without a fault. -/
def KeyPassedOver (k n j : Nat) : Prop :=
  ¬ KeyMatches m bank px (k + j) ∧ ¬ KeyRecordFaulty disturb m bank px (k + j) (n + readsOver m bank k j)

/-- A KEY search from record `k` on meets a fault at record `k + i`. -/
def KeyFaultAt (k n i : Nat) : Prop :=
  (∀ j < i, KeyPassedOver disturb m bank px k n j) ∧
    KeyRecordFaulty disturb m bank px (k + i) (n + readsOver m bank k i)

theorem keyPassedOver_succ (k n j : Nat) :
    KeyPassedOver disturb m bank px k n (j + 1) ↔
      KeyPassedOver disturb m bank px (k + 1) (n + keyReads m bank k) j := by
  rw [KeyPassedOver, KeyPassedOver, readsOver_succ, ← Nat.add_assoc n, Nat.add_right_comm k 1 j]
  rfl

theorem keyFaultAt_zero (k n : Nat) :
    KeyFaultAt disturb m bank px k n 0 ↔ KeyRecordFaulty disturb m bank px k n :=
  and_iff_right fun _ h => absurd h (Nat.not_lt_zero _)

theorem keyFaultAt_succ (k n i : Nat) :
    KeyFaultAt disturb m bank px k n (i + 1) ↔ (¬ KeyMatches m bank px k ∧ ¬ KeyRecordFaulty disturb m bank px k n) ∧
      KeyFaultAt disturb m bank px (k + 1) (n + keyReads m bank k) i := by
  rw [KeyFaultAt, KeyFaultAt, Nat.forall_lt_succ_left, readsOver_succ, ← Nat.add_assoc n, and_assoc]
  refine and_congr Iff.rfl (and_congr (forall₂_congr fun j _ => keyPassedOver_succ ..) ?_)
  rw [Nat.add_right_comm k 1 i]
  rfl

/-- A KEY search meets a fault exactly at some record, those before it passed over. -/
theorem searchKeys_faulty_iff (k n rest : Nat) :
    (searchKeys disturb m bank px k n rest).faulty = true ↔ ∃ i < rest, KeyFaultAt disturb m bank px k n i := by
  induction rest generalizing k n with
  | zero => simp [searchKeys]
  | succ rest ih =>
    rw [searchKeys_fault_step, ih, Nat.exists_lt_succ_left, keyFaultAt_zero]
    simp only [keyFaultAt_succ]
    refine or_congr Iff.rfl ⟨?_, ?_⟩
    · rintro ⟨hmatch, hsound, i, hi, hfault⟩
      exact ⟨i, hi, ⟨hmatch, hsound⟩, hfault⟩
    · rintro ⟨i, hi, ⟨hmatch, hsound⟩, hfault⟩
      exact ⟨hmatch, hsound, i, hi, hfault⟩

/-- The search of a KEY stage meets a fault as R18 says. -/
theorem searchKeys_keySearchFaulty (n keyCount : Nat) :
    (searchKeys disturb m bank px 0 n keyCount).faulty = true ↔ KeySearchFaulty disturb m bank px n keyCount := by
  rw [searchKeys_faulty_iff]
  simp only [KeyFaultAt, KeyPassedOver, readsOver, Nat.zero_add]
  rfl

/-! ### What a fault leaves on the handle (R19, R20) -/

theorem HandleRecord.lookupFault_eq (r : HandleRecord) :
    r.lookupFault = { r with
      faultCount := if r.faultCount = 255 then 255 else r.faultCount + 1,
      active := r.active.map fun side => { side with mark := true } } := by
  have hcount : saturate8 r.faultCount = if r.faultCount = 255 then 255 else r.faultCount + 1 := by
    by_cases h : r.faultCount = 255
    · rw [if_pos h, saturate8, if_pos (show r.faultCount = 0xFF#8 from h)]
      exact h
    · rw [if_neg h, saturate8, if_neg (show ¬ r.faultCount = 0xFF#8 from h)]
  rw [← hcount]
  rfl

theorem Lookup.after_faulty_handle {look : Lookup} {h : Handle} {r : StageResult} (e : r.faulty = true) (k : Handle) :
    (look.after h r).handles[k.val] = if k = h then look.handles[k.val].lookupFault else look.handles[k.val] := by
  rw [Lookup.after_faulty e]
  by_cases hk : k = h
  · subst hk
    rw [if_pos rfl]
    exact Vector.getElem_set_self _
  · rw [if_neg hk]
    exact Vector.getElem_set_ne h.isLt k.isLt fun hval => hk (Fin.ext hval.symm)

end FaultyStages

/-- Settles O28: the faults of each kind of stage, and the chain and the line unrolled by one. -/
theorem faultyStageStepsAside : Obligations.FaultyStageStepsAside := by
  refine ⟨fun disturb m side st px n => ?_, fun disturb m c x y look px => ⟨fun st rest => ?_, rfl, rfl, fun rest => rfl⟩⟩
  · intro r bad read
    refine ⟨runStage_fault_out disturb m (some side) st px n, fun hkind => ?_, fun hkind => ?_, fun hkind => ?_⟩
    · have hr : r = runCurve disturb m side.bank st.option px n := by simp only [r, runStage, hkind]
      obtain ⟨hfaulty, hnext, _⟩ := runCurve_fault disturb m side.bank st.option px n
      rw [hr]
      exact ⟨hfaulty, hnext⟩
    · have hr : r = runPalette disturb m side.bank st.option px n := by simp only [r, runStage, hkind]
      rw [hr]
      exact ⟨Iff.rfl, rfl⟩
    · have hr : r = searchKeys disturb m side.bank px 0 n side.keyCount := by simp only [r, runStage, hkind]
      rw [hr]
      exact ⟨searchKeys_keySearchFaulty .., (searchKeys_result 0 n side.keyCount).1⟩
  · intro r
    refine ⟨look.after st.handle r, rfl, Lookup.after_sound, fun hfault => ⟨?_, ?_, fun h => ?_⟩⟩
    · rw [Lookup.after_faulty hfault]
    · rw [Lookup.after_faulty hfault]
    · rw [Lookup.after_faulty_handle hfault, HandleRecord.lookupFault_eq]

end Sys2Proof.Machine
end

section
/-! The pixels of a line (R4, R12, R13, R18): the chain a position selects, and each pixel's output from its own value, its
position and the tables. -/

namespace Sys2Proof.Machine

/-! ### The chain of a position (R12) -/

/-- Region `k` is enabled and contains the position (R12). -/
def Configuration.Takes (c : Configuration) (x y : Nat) (k : Fin 6) : Prop :=
  c.regions[k.val].enabled = true ∧ c.regions[k.val].rect.x0.toNat ≤ x ∧ x ≤ c.regions[k.val].rect.x1.toNat ∧
    c.regions[k.val].rect.y0.toNat ≤ y ∧ y ≤ c.regions[k.val].rect.y1.toNat

/-- The test by which `selectChain` looks for a region. -/
def Region.takes (x y : Nat) (r : Region) : Bool := r.enabled && r.rect.contains x y

theorem Configuration.takes_iff (c : Configuration) (x y : Nat) (k : Fin 6) :
    c.regions[k.val].takes x y = true ↔ c.Takes x y k := by
  simp only [Region.takes, Rect.contains, Configuration.Takes, Bool.and_eq_true, decide_eq_true_iff, and_assoc]

theorem selectChain_of_lowest {c : Configuration} {x y : Nat} {k : Fin 6} (hk : c.Takes x y k)
    (hlower : ∀ j < k, ¬ c.Takes x y j) : selectChain c x y = c.regions[k.val].chain := by
  have hfound : c.regions.toList.find? (Region.takes x y) = some c.regions[k.val] := by
    refine List.find?_eq_some_iff_getElem.2 ⟨(c.takes_iff x y k).2 hk, k.val, by simp, by simp, fun j hj => ?_⟩
    have hno := (c.takes_iff x y ⟨j, hj.trans k.isLt⟩).not.2 (hlower ⟨j, _⟩ hj)
    simpa using hno
  have hselect : selectChain c x y = ((c.regions.toList.find? (Region.takes x y)).map Region.chain).getD 0 := by
    unfold selectChain
    change (match c.regions.toList.find? (Region.takes x y) with | some r => r.chain | none => 0) = _
    cases c.regions.toList.find? (Region.takes x y) with
    | none => rfl
    | some r => rfl
  rw [hselect, hfound]
  rfl

theorem selectChain_of_none {c : Configuration} {x y : Nat} (h : ∀ k, ¬ c.Takes x y k) : selectChain c x y = 0 := by
  have hnone : c.regions.toList.find? (fun r => r.enabled && r.rect.contains x y) = none := by
    refine List.find?_eq_none.2 fun r hr => ?_
    obtain ⟨k, hk, rfl⟩ := List.getElem_of_mem hr
    have hlt : k < 6 := by simpa using hk
    have hno := (c.takes_iff x y ⟨k, hlt⟩).not.2 (h _)
    simpa [Region.takes] using hno
  simp only [selectChain, hnone]

/-! ### A chain on one pixel (R13, R18) -/

/-- The output of a chain for a pixel, the handles' active sides given (R13). -/
def chainOutput (m : Memory) (handles : Vector HandleRecord 10) (chain : List Stage) (px : Triple) : Triple :=
  chain.foldl (fun acc st => stageOutput m handles[st.handle.val].active st acc) px

/-- A stage uses the bank and the key count of the active side alone. -/
theorem stageOutput_use (m : Memory) {a b : Option Side} (h : a.map Side.use = b.map Side.use) (st : Stage) (px : Triple) :
    stageOutput m a st px = stageOutput m b st px := by
  cases a with
  | none =>
    cases b with
    | none => rfl
    | some y => simp at h
  | some x =>
    cases b with
    | none => simp at h
    | some y =>
      simp only [Option.map_some, Option.some.injEq, Side.use, Prod.mk.injEq] at h
      simp only [stageOutput, h.1, h.2]

/-- Faults of lookups do not change what a chain gives. -/
theorem chainOutput_grows (m : Memory) {l l' : Lookup} (h : l.Grows l') (chain : List Stage) (px : Triple) :
    chainOutput m l'.handles chain px = chainOutput m l.handles chain px := by
  unfold chainOutput
  congr 1
  funext acc st
  exact stageOutput_use m (h.same st.handle).use st acc

theorem Lookup.after_reads (l : Lookup) (h : Handle) (r : StageResult) : (l.after h r).reads = r.next := by
  unfold Lookup.after
  split
  · rfl
  · rfl

theorem runChain_reads_le (disturb : Nat → Option Triple) (m : Memory) (px : Triple) (l : Lookup) (chain : List Stage) :
    l.reads ≤ (runChain disturb m px l chain).2.reads := by
  induction chain generalizing px l with
  | nil => exact le_refl _
  | cons st rest ih =>
    have hstage := (runStage_result (disturb := disturb) (m := m) (px := px) l.handles[st.handle.val].active st l.reads).1
    rw [← l.after_reads st.handle] at hstage
    exact hstage.trans (ih _ _)

/-- A chain none of whose reads is disturbed gives its output (R13, R18). -/
theorem runChain_out {disturb : Nat → Option Triple} {m : Memory} (hm : m.Sound) {px : Triple} {l : Lookup}
    {chain : List Stage} (h : ∀ i, l.reads ≤ i → i < (runChain disturb m px l chain).2.reads → disturb i = none) :
    (runChain disturb m px l chain).1 = chainOutput m l.handles chain px := by
  induction chain generalizing px l with
  | nil => rfl
  | cons st rest ih =>
    let r := runStage disturb m l.handles[st.handle.val].active st px l.reads
    have hreads : (l.after st.handle r).reads = r.next := l.after_reads st.handle r
    have hfrom : l.reads ≤ r.next := (runStage_result _ st l.reads).1
    have hto : r.next ≤ (runChain disturb m px l (st :: rest)).2.reads :=
      hreads.symm.le.trans (runChain_reads_le disturb m r.out (l.after st.handle r) rest)
    have hstage : r.out = stageOutput m l.handles[st.handle.val].active st px :=
      runStage_out hm fun i hi hi' => h i hi (hi'.trans_le hto)
    have hrest : (runChain disturb m r.out (l.after st.handle r) rest).1 =
        chainOutput m (l.after st.handle r).handles rest r.out :=
      ih fun i hi hi' => h i (hfrom.trans (hreads.symm.le.trans hi)) hi'
    calc (runChain disturb m px l (st :: rest)).1
        = chainOutput m (l.after st.handle r).handles rest r.out := hrest
      _ = chainOutput m l.handles rest r.out := chainOutput_grows m (l.after_grows st.handle r) rest r.out
      _ = chainOutput m l.handles (st :: rest) px := by rw [hstage]; rfl

/-! ### A line (R4) -/

/-- A pixel none of whose reads is disturbed gives the output of its chain, whatever the pixels before it met. -/
theorem transformFrom_getElem? {disturb : Nat → Option Triple} {m : Memory} (hm : m.Sound) {c : Configuration} {y x : Nat}
    {look : Lookup} {pixels : List Triple} {j : Nat} {px : Triple} (hpx : pixels[j]? = some px)
    (h : ∀ n, (transformFrom disturb m c y x look (pixels.take j)).2.reads ≤ n →
      n < (transformFrom disturb m c y x look (pixels.take (j + 1))).2.reads → disturb n = none) :
    (transformFrom disturb m c y x look pixels).1[j]? =
      some (chainOutput m look.handles c.chains[(selectChain c (x + j) y).val] px) := by
  induction pixels generalizing x look j with
  | nil => simp at hpx
  | cons first rest ih =>
    let r := runChain disturb m first look c.chains[(selectChain c x y).val]
    cases j with
    | zero =>
      obtain rfl : first = px := by simpa using hpx
      exact congrArg some (runChain_out hm h)
    | succ j =>
      have hrest : (transformFrom disturb m c y (x + 1) r.2 rest).1[j]? =
          some (chainOutput m r.2.handles c.chains[(selectChain c (x + 1 + j) y).val] px) := ih hpx h
      have hposition : x + 1 + j = x + (j + 1) := by omega
      simp only [chainOutput_grows m (runChain_grows disturb m first look _), hposition, r] at hrest
      exact hrest

theorem chainOutput_undisturbed {m : Memory} (hm : m.Sound) (handles : Vector HandleRecord 10) (chain : List Stage)
    (px : Triple) :
    chain.foldl (fun acc st => (runStage (fun _ => none) m handles[st.handle.val].active st acc 0).out) px =
      chainOutput m handles chain px := by
  unfold chainOutput
  congr 1
  funext acc st
  exact runStage_out hm fun _ _ _ => rfl

/-- Settles O26: the region by `selectChain_of_lowest`, the pixel by induction on those before it. -/
theorem pixelsTransformedByPosition : Obligations.PixelsTransformedByPosition := by
  refine ⟨fun c x y => ⟨fun k => selectChain_of_lowest, selectChain_of_none⟩, ?_⟩
  intro disturb m c y x look pixels j px hm hpx readsBefore hundisturbed
  rw [chainOutput_undisturbed hm]
  exact transformFrom_getElem? hm hpx hundisturbed

end Sys2Proof.Machine
end
